-- ==== Sys2Proof/Word.lean ====
section
/-!
DEFINITION. Word.lean: the widths the spec fixes (00_scope.md R7, 20_memory.md R41). The values are bit vectors because the
spec adds, slices and concatenates them; everything that is a count or an index of a fixed range elsewhere is a `Nat`.
-/

namespace Sys2Proof

/-- A byte is 8 bits (R41). -/
abbrev Byte := BitVec 8

/-- A T32 halfword `hw1` or `hw2` (R60). -/
abbrev Half := BitVec 16

/-- A general-purpose register value, an address, a control register or an instruction value: 32 bits (R7, R60). -/
abbrev Word := BitVec 32

/-- A SIMD&FP register named in `<list>`: 64 bits (R7, R30). -/
abbrev DWord := BitVec 64

/-- A 4-bit register number, the field `Rn` or `Rm` (R7, R63). -/
abbrev RegNum := BitVec 4

end Sys2Proof
end

