-- ==== Sys2Proof/Config.lean ====
section
/-!
DEFINITION. Config.lean: the types of the spec's parameters (00_scope.md R6), the names the spec gives to modes and states
(10_state.md R27, R35), and the free values: opaque constants without a body, of which nothing can be proved.

The parameters themselves are FIELDS OF STATE (Machine/State.lean), because the spec makes them part of the launch state
and every claim ranges over them (R38).
-/

namespace Sys2Proof

/-- `InstrSet` (R6, R28): the instruction set the PE is executing. -/
inductive InstrSet where
  | a32
  | t32
deriving DecidableEq, Repr, Inhabited

/-- `AdvSIMDAccess` (R6, R142): the verdict of `CheckAdvSIMDEnabled()`. -/
inductive AdvSIMDAccess where
  | enabled
  | undefined
  | hypTrap
deriving DecidableEq, Repr, Inhabited

/-- `CUChoice` (R6, R121): which of the permitted behaviours a register list past `D31` takes. -/
inductive CUChoice where
  | refuse
  | undefined
  | nop
  | unknown
deriving DecidableEq, Repr, Inhabited

/-- What `MemAdmit` answers to an access (R6, R48). -/
inductive Admit where
  | ok
  | abort
deriving DecidableEq, Repr, Inhabited

/-- One row of the parameter `MemAdmit` (R6, R48) written as plain data: it answers for the accesses whose start address
lies in `first` to `last` and whose size, privilege and direction are those given (`none`: any). A list of such rows, the
first that applies deciding, can express every function of R6's type, since its domain is finite (log entry 5). -/
structure AdmitRule where
  first : Word
  last : Word
  size : Option Nat
  privileged : Option Bool
  write : Option Bool
  answer : Admit
deriving DecidableEq, Repr

/-- `PSTATE.EL` (R27): the Exception level. EL0 is the lowest (R16). -/
inductive EL where
  | el0
  | el1
  | el2
  | el3
deriving DecidableEq, Repr, Inhabited

/-- The Security states (R35). -/
inductive SecurityState where
  | secure
  | nonSecure
deriving DecidableEq, Repr, Inhabited

/-- The PE modes (R35). -/
inductive PEMode where
  | user
  | fiq
  | irq
  | supervisor
  | monitor
  | abort
  | hyp
  | undef
  | system
deriving DecidableEq, Repr, Inhabited

/-- FREE VALUE. A draw of one UNKNOWN byte (R14, D26): the byte that the `i`-th draw gives. No body, no law.
DESIGN CHOICE, log entry 9. -/
opaque Config.unknownByte (i : Nat) : Byte

/-- FREE VALUE. A draw of one UNKNOWN general-purpose register value (R14, R121, D26). DESIGN CHOICE, log entry 9. -/
opaque Config.unknownWord (i : Nat) : Word

/-- FREE VALUE. What the sketch of R142 says of the reserved value `10` of `CPACR.cp10` (R34), for which it states no
verdict. DESIGN CHOICE, log entry 6. -/
opaque Config.reservedCp10Verdict : AdvSIMDAccess

/-- FREE VALUE. What the sketch of R142 says of a trapped access above EL2 (Monitor mode, and the Secure privileged modes where EL3
uses AArch32): it gives a verdict below EL2 and in Hyp mode only. DESIGN CHOICE, log entry 6. -/
opaque Config.trapAboveEL2Verdict : AdvSIMDAccess

end Sys2Proof
end

