-- ==== Sys2Proof/Syntax.lean ====
section
/-!
DEFINITION. Syntax.lean: the abstract syntax, one constructor per row of spec/opcode_table.json: the eighteen variants of
VST4 (single 4-element structure from one lane), nine in A32 and nine in T32 (R2, R65), and the four UNDEFINED patterns of
the same opcode space (R71). Operands are those of R78 to R80, already split from the encoded fields of R63.
-/

namespace Sys2Proof

/-- Register spacing of `<list>` (R16, R78): `inc` is 1 or 2. -/
inductive Spacing where
  | single
  | double
deriving DecidableEq, Repr

/-- `<align>` for `<size>` 32 (R68, R79): omitted, `:64` or `:128`. -/
inductive Align32 where
  | standard
  | bits64
  | bits128
deriving DecidableEq, Repr

/-- The instructions. `d` is `D:Vd`, the first register of `<list>`; `n` is the base register `<Rn>`; `i` is the lane
`<index>`; `m` is the index register `<Rm>`. For sizes 8 and 16, `al` says whether `<align>` is written (`:32`, `:64`).
The UNDEFINED patterns keep every field their encodings leave free. -/
inductive Instr where
  /-- A1 Offset, R100. -/
  | a1Offset (d : BitVec 5) (n : RegNum) (i : BitVec 3) (al : Bool)
  /-- A1 Post-indexed (immediate), R101. -/
  | a1PostImm (d : BitVec 5) (n : RegNum) (i : BitVec 3) (al : Bool)
  /-- A1 Post-indexed (register), R102. -/
  | a1PostReg (d : BitVec 5) (n : RegNum) (i : BitVec 3) (al : Bool) (m : RegNum)
  /-- A2 Offset, R103. -/
  | a2Offset (d : BitVec 5) (n : RegNum) (i : BitVec 2) (sp : Spacing) (al : Bool)
  /-- A2 Post-indexed (immediate), R104. -/
  | a2PostImm (d : BitVec 5) (n : RegNum) (i : BitVec 2) (sp : Spacing) (al : Bool)
  /-- A2 Post-indexed (register), R105. -/
  | a2PostReg (d : BitVec 5) (n : RegNum) (i : BitVec 2) (sp : Spacing) (al : Bool) (m : RegNum)
  /-- A3 Offset, R106. -/
  | a3Offset (d : BitVec 5) (n : RegNum) (i : BitVec 1) (sp : Spacing) (al : Align32)
  /-- A3 Post-indexed (immediate), R107. -/
  | a3PostImm (d : BitVec 5) (n : RegNum) (i : BitVec 1) (sp : Spacing) (al : Align32)
  /-- A3 Post-indexed (register), R108. -/
  | a3PostReg (d : BitVec 5) (n : RegNum) (i : BitVec 1) (sp : Spacing) (al : Align32) (m : RegNum)
  /-- T1 Offset, R109. -/
  | t1Offset (d : BitVec 5) (n : RegNum) (i : BitVec 3) (al : Bool)
  /-- T1 Post-indexed (immediate), R110. -/
  | t1PostImm (d : BitVec 5) (n : RegNum) (i : BitVec 3) (al : Bool)
  /-- T1 Post-indexed (register), R111. -/
  | t1PostReg (d : BitVec 5) (n : RegNum) (i : BitVec 3) (al : Bool) (m : RegNum)
  /-- T2 Offset, R112. -/
  | t2Offset (d : BitVec 5) (n : RegNum) (i : BitVec 2) (sp : Spacing) (al : Bool)
  /-- T2 Post-indexed (immediate), R113. -/
  | t2PostImm (d : BitVec 5) (n : RegNum) (i : BitVec 2) (sp : Spacing) (al : Bool)
  /-- T2 Post-indexed (register), R114. -/
  | t2PostReg (d : BitVec 5) (n : RegNum) (i : BitVec 2) (sp : Spacing) (al : Bool) (m : RegNum)
  /-- T3 Offset, R115. -/
  | t3Offset (d : BitVec 5) (n : RegNum) (i : BitVec 1) (sp : Spacing) (al : Align32)
  /-- T3 Post-indexed (immediate), R116. -/
  | t3PostImm (d : BitVec 5) (n : RegNum) (i : BitVec 1) (sp : Spacing) (al : Align32)
  /-- T3 Post-indexed (register), R117. -/
  | t3PostReg (d : BitVec 5) (n : RegNum) (i : BitVec 1) (sp : Spacing) (al : Align32) (m : RegNum)
  /-- A32, `size == '11'`: UNDEFINED, R71 (a). -/
  | undefSizeA32 (d : BitVec 5) (n : RegNum) (ia : BitVec 4) (m : RegNum)
  /-- A32, `size == '10'` and `index_align<1:0> == '11'`: UNDEFINED, R71 (b); `ia` is `index_align<3:2>`. -/
  | undefAlignA32 (d : BitVec 5) (n : RegNum) (ia : BitVec 2) (m : RegNum)
  /-- T32, `size == '11'`: UNDEFINED, R71 (a). -/
  | undefSizeT32 (d : BitVec 5) (n : RegNum) (ia : BitVec 4) (m : RegNum)
  /-- T32, `size == '10'` and `index_align<1:0> == '11'`: UNDEFINED, R71 (b). -/
  | undefAlignT32 (d : BitVec 5) (n : RegNum) (ia : BitVec 2) (m : RegNum)
deriving DecidableEq, Repr

/-- The instruction set an encoding belongs to (R2). -/
def Instr.instrSet : Instr → InstrSet
  | .a1Offset .. | .a1PostImm .. | .a1PostReg .. => .a32
  | .a2Offset .. | .a2PostImm .. | .a2PostReg .. => .a32
  | .a3Offset .. | .a3PostImm .. | .a3PostReg .. => .a32
  | .t1Offset .. | .t1PostImm .. | .t1PostReg .. => .t32
  | .t2Offset .. | .t2PostImm .. | .t2PostReg .. => .t32
  | .t3Offset .. | .t3PostImm .. | .t3PostReg .. => .t32
  | .undefSizeA32 .. | .undefAlignA32 .. => .a32
  | .undefSizeT32 .. | .undefAlignT32 .. => .t32

end Sys2Proof
end

