-- ==== Sys2Proof/WellFormed.lean ====
section
/-!
DEFINITION. WellFormed.lean: which terms of `Instr` an encoding exists for (R65, R80). An encoding that R72 calls
UNPREDICTABLE (base register 15, a list past `D31`) has a word, decodes, and is well formed: its behaviour is in the
machine (Machine/Ops.lean, `DecodeConsts.unpredictable`).
-/

namespace Sys2Proof

/-- `Rm != 11x1` (R65, R80): the field value 13 selects Post-indexed (immediate) and 15 selects Offset, so neither can name
an index register. -/
def isIndexReg (m : RegNum) : Bool := m != 13#4 && m != 15#4

/-- An instruction that has an encoding: the index register of a Post-indexed (register) form is not 13 or 15 (R80).
Everything else is carried by the operand types. -/
def WellFormed : Instr → Bool
  | .a1Offset .. | .a1PostImm .. | .a2Offset .. | .a2PostImm .. | .a3Offset .. | .a3PostImm .. => true
  | .t1Offset .. | .t1PostImm .. | .t2Offset .. | .t2PostImm .. | .t3Offset .. | .t3PostImm .. => true
  | .a1PostReg _ _ _ _ m | .t1PostReg _ _ _ _ m => isIndexReg m
  | .a2PostReg _ _ _ _ _ m | .t2PostReg _ _ _ _ _ m => isIndexReg m
  | .a3PostReg _ _ _ _ _ m | .t3PostReg _ _ _ _ _ m => isIndexReg m
  | .undefSizeA32 .. | .undefAlignA32 .. | .undefSizeT32 .. | .undefAlignT32 .. => true

end Sys2Proof
end

