-- ==== Sys2Proof/Decode.lean ====
section
/-!
DEFINITION. Decode.lean: from bytes to an instruction, total, every refusal by name (30_encoding.md R60 to R74, R81), and
after it the encoder. The bit positions are the spec's, which it supplies from general knowledge (R61, R62, D1; log entry 1).
-/

namespace Sys2Proof

/-- Why bytes are no instruction of this spec. -/
inductive DecodeRefusal where
  /-- Fewer bytes than the instruction needs (R60, R74). -/
  | truncated
  /-- A T32 halfword that does not start a 32-bit instruction (R74). -/
  | narrowT32 (hw : Half)
  /-- "not a VST4 single-lane encoding" (R17, R81 step 1). -/
  | notVst4SingleLane (w : Word)
deriving DecidableEq, Repr

/-- The named fields of R63. -/
structure Fields where
  dHigh : BitVec 1
  rn : RegNum
  vd : BitVec 4
  size : BitVec 2
  indexAlign : BitVec 4
  rm : RegNum
deriving DecidableEq, Repr

/-- The fixed bits of R61 and R62: the mask is the same in both instruction sets. -/
def spaceMask : Word := 0xFFB00300#32

/-- The value the masked word has: R61 for A32, R62 for T32 (`hw1:hw2`). -/
def spaceMatch : InstrSet → Word
  | .a32 => 0xF4800300#32
  | .t32 => 0xF9800300#32

/-- R81 step (2): the fields of a word, at the positions of R61 and R62. -/
def unpackFields (w : Word) : Fields where
  dHigh := w.extractLsb' 22 1
  rn := w.extractLsb' 16 4
  vd := w.extractLsb' 12 4
  size := w.extractLsb' 10 2
  indexAlign := w.extractLsb' 4 4
  rm := w.extractLsb' 0 4

/-- `D:Vd` (R70). -/
def Fields.firstReg (f : Fields) : BitVec 5 := f.dHigh ++ f.vd

/-- `index_align<0>` for sizes 8 and 16 (R66, R67): is `<align>` given. -/
def alignBit (ia : BitVec 4) : Bool := ia.extractLsb' 0 1 == 1#1

/-- A spacing bit (R67, R68, R78): 0 single, 1 double. -/
def spacingOf (b : BitVec 1) : Spacing := if b == 1#1 then .double else .single

/-- `index_align<1:0>` for size 32 (R68); `11` is UNDEFINED and is taken out before. -/
def align32Of (b : BitVec 2) : Align32 :=
  if b == 1#2 then .bits64 else if b == 2#2 then .bits128 else .standard

/-- Size 8, the three variants of R65 in the instruction set given (R66). -/
def decodeSize8 (set : InstrSet) (f : Fields) : Instr :=
  match set with
  | .a32 =>
    if f.rm == 15#4 then .a1Offset f.firstReg f.rn (f.indexAlign.extractLsb' 1 3) (alignBit f.indexAlign)
    else if f.rm == 13#4 then .a1PostImm f.firstReg f.rn (f.indexAlign.extractLsb' 1 3) (alignBit f.indexAlign)
    else .a1PostReg f.firstReg f.rn (f.indexAlign.extractLsb' 1 3) (alignBit f.indexAlign) f.rm
  | .t32 =>
    if f.rm == 15#4 then .t1Offset f.firstReg f.rn (f.indexAlign.extractLsb' 1 3) (alignBit f.indexAlign)
    else if f.rm == 13#4 then .t1PostImm f.firstReg f.rn (f.indexAlign.extractLsb' 1 3) (alignBit f.indexAlign)
    else .t1PostReg f.firstReg f.rn (f.indexAlign.extractLsb' 1 3) (alignBit f.indexAlign) f.rm

/-- Size 16 (R67). -/
def decodeSize16 (set : InstrSet) (f : Fields) : Instr :=
  match set with
  | .a32 =>
    if f.rm == 15#4 then
      .a2Offset f.firstReg f.rn (f.indexAlign.extractLsb' 2 2) (spacingOf (f.indexAlign.extractLsb' 1 1)) (alignBit f.indexAlign)
    else if f.rm == 13#4 then
      .a2PostImm f.firstReg f.rn (f.indexAlign.extractLsb' 2 2) (spacingOf (f.indexAlign.extractLsb' 1 1)) (alignBit f.indexAlign)
    else
      .a2PostReg f.firstReg f.rn (f.indexAlign.extractLsb' 2 2) (spacingOf (f.indexAlign.extractLsb' 1 1)) (alignBit f.indexAlign) f.rm
  | .t32 =>
    if f.rm == 15#4 then
      .t2Offset f.firstReg f.rn (f.indexAlign.extractLsb' 2 2) (spacingOf (f.indexAlign.extractLsb' 1 1)) (alignBit f.indexAlign)
    else if f.rm == 13#4 then
      .t2PostImm f.firstReg f.rn (f.indexAlign.extractLsb' 2 2) (spacingOf (f.indexAlign.extractLsb' 1 1)) (alignBit f.indexAlign)
    else
      .t2PostReg f.firstReg f.rn (f.indexAlign.extractLsb' 2 2) (spacingOf (f.indexAlign.extractLsb' 1 1)) (alignBit f.indexAlign) f.rm

/-- Size 32 with `index_align<1:0>` other than `11` (R68). -/
def decodeSize32 (set : InstrSet) (f : Fields) : Instr :=
  match set with
  | .a32 =>
    if f.rm == 15#4 then
      .a3Offset f.firstReg f.rn (f.indexAlign.extractLsb' 3 1) (spacingOf (f.indexAlign.extractLsb' 2 1)) (align32Of (f.indexAlign.extractLsb' 0 2))
    else if f.rm == 13#4 then
      .a3PostImm f.firstReg f.rn (f.indexAlign.extractLsb' 3 1) (spacingOf (f.indexAlign.extractLsb' 2 1)) (align32Of (f.indexAlign.extractLsb' 0 2))
    else
      .a3PostReg f.firstReg f.rn (f.indexAlign.extractLsb' 3 1) (spacingOf (f.indexAlign.extractLsb' 2 1)) (align32Of (f.indexAlign.extractLsb' 0 2)) f.rm
  | .t32 =>
    if f.rm == 15#4 then
      .t3Offset f.firstReg f.rn (f.indexAlign.extractLsb' 3 1) (spacingOf (f.indexAlign.extractLsb' 2 1)) (align32Of (f.indexAlign.extractLsb' 0 2))
    else if f.rm == 13#4 then
      .t3PostImm f.firstReg f.rn (f.indexAlign.extractLsb' 3 1) (spacingOf (f.indexAlign.extractLsb' 2 1)) (align32Of (f.indexAlign.extractLsb' 0 2))
    else
      .t3PostReg f.firstReg f.rn (f.indexAlign.extractLsb' 3 1) (spacingOf (f.indexAlign.extractLsb' 2 1)) (align32Of (f.indexAlign.extractLsb' 0 2)) f.rm

/-- The UNDEFINED pattern R71 (a). -/
def decodeUndefSize (set : InstrSet) (f : Fields) : Instr :=
  match set with
  | .a32 => .undefSizeA32 f.firstReg f.rn f.indexAlign f.rm
  | .t32 => .undefSizeT32 f.firstReg f.rn f.indexAlign f.rm

/-- The UNDEFINED pattern R71 (b). -/
def decodeUndefAlign (set : InstrSet) (f : Fields) : Instr :=
  match set with
  | .a32 => .undefAlignA32 f.firstReg f.rn (f.indexAlign.extractLsb' 2 2) f.rm
  | .t32 => .undefAlignT32 f.firstReg f.rn (f.indexAlign.extractLsb' 2 2) f.rm

/-- R81 steps (3), (4), (5), (7): the row of the opcode table that the fields select (R64, R65, R71). -/
def instrOfFields (set : InstrSet) (f : Fields) : Instr :=
  if f.size == 3#2 then decodeUndefSize set f
  else if f.size == 2#2 then
    if f.indexAlign.extractLsb' 0 2 == 3#2 then decodeUndefAlign set f else decodeSize32 set f
  else if f.size == 1#2 then decodeSize16 set f
  else decodeSize8 set f

/-- R81: the instruction a 32-bit value stands for in an instruction set (`hw1:hw2` for T32). -/
def decodeWord (set : InstrSet) (w : Word) : Except DecodeRefusal Instr :=
  if w &&& spaceMask == spaceMatch set then .ok (instrOfFields set (unpackFields w))
  else .error (.notVst4SingleLane w)

/-- R74: bits 15:11 of a first halfword that starts a 32-bit T32 instruction. -/
def startsWideT32 (hw : Half) : Bool :=
  hw.extractLsb' 11 5 == 0b11101#5 || hw.extractLsb' 11 5 == 0b11110#5 || hw.extractLsb' 11 5 == 0b11111#5

/-- A little-endian halfword (R43). -/
def leHalf (b0 b1 : Byte) : Half := b1 ++ b0

/-- A little-endian word (R43). -/
def leWord (b0 b1 b2 b3 : Byte) : Word := b3 ++ b2 ++ b1 ++ b0

/-- The value `hw1:hw2` (R60). -/
def halfPair (hw1 hw2 : Half) : Word := hw1 ++ hw2

/-- An A32 instruction is one little-endian word (R43, R60). -/
def decodeA32 : List Byte → Except DecodeRefusal (Instr × List Byte)
  | b0 :: b1 :: b2 :: b3 :: rest =>
    match decodeWord .a32 (leWord b0 b1 b2 b3) with
    | .ok i => .ok (i, rest)
    | .error e => .error e
  | _ => .error .truncated

/-- A T32 instruction is one or two little-endian halfwords, `hw1` first (R43, R60, R74). -/
def decodeT32 : List Byte → Except DecodeRefusal (Instr × List Byte)
  | b0 :: b1 :: rest =>
    if startsWideT32 (leHalf b0 b1) then
      match rest with
      | b2 :: b3 :: rest' =>
        match decodeWord .t32 (halfPair (leHalf b0 b1) (leHalf b2 b3)) with
        | .ok i => .ok (i, rest')
        | .error e => .error e
      | _ => .error .truncated
    else .error (.narrowT32 (leHalf b0 b1))
  | _ => .error .truncated

/-- The decoder: any bytes, in the instruction set the PE is executing (R28, R81). -/
def decode (set : InstrSet) (bytes : List Byte) : Except DecodeRefusal (Instr × List Byte) :=
  match set with
  | .a32 => decodeA32 bytes
  | .t32 => decodeT32 bytes

/-! ### The encoder -/

/-- A word from its fields: the fixed bits, and each field at its position in R61 (A32) and R62 (T32). -/
def packFields (set : InstrSet) (f : Fields) : Word :=
  spaceMatch set ||| f.dHigh.setWidth 32 <<< 22 ||| f.rn.setWidth 32 <<< 16 ||| f.vd.setWidth 32 <<< 12 |||
    f.size.setWidth 32 <<< 10 ||| f.indexAlign.setWidth 32 <<< 4 ||| f.rm.setWidth 32

/-- The encoding of `alignBit`. -/
def bitOfAlign (al : Bool) : BitVec 1 := if al then 1#1 else 0#1

/-- The encoding of `spacingOf`. -/
def bitOfSpacing : Spacing → BitVec 1
  | .single => 0#1
  | .double => 1#1

/-- The encoding of `align32Of` (R79). -/
def bitsOfAlign32 : Align32 → BitVec 2
  | .standard => 0#2
  | .bits64 => 1#2
  | .bits128 => 2#2

/-- The fields of a size 8 instruction: `index_align = iii:a` (R66, R78, R79). -/
def fieldsSize8 (d : BitVec 5) (n : RegNum) (i : BitVec 3) (al : Bool) (m : RegNum) : Fields where
  dHigh := d.extractLsb' 4 1
  rn := n
  vd := d.extractLsb' 0 4
  size := 0#2
  indexAlign := i ++ bitOfAlign al
  rm := m

/-- The fields of a size 16 instruction: `index_align = ii:s:a` (R67). -/
def fieldsSize16 (d : BitVec 5) (n : RegNum) (i : BitVec 2) (sp : Spacing) (al : Bool) (m : RegNum) : Fields where
  dHigh := d.extractLsb' 4 1
  rn := n
  vd := d.extractLsb' 0 4
  size := 1#2
  indexAlign := i ++ bitOfSpacing sp ++ bitOfAlign al
  rm := m

/-- The fields of a size 32 instruction: `index_align = i:s:aa` (R68). -/
def fieldsSize32 (d : BitVec 5) (n : RegNum) (i : BitVec 1) (sp : Spacing) (al : Align32) (m : RegNum) : Fields where
  dHigh := d.extractLsb' 4 1
  rn := n
  vd := d.extractLsb' 0 4
  size := 2#2
  indexAlign := i ++ bitOfSpacing sp ++ bitsOfAlign32 al
  rm := m

/-- The fields of the UNDEFINED pattern R71 (a). -/
def fieldsUndefSize (d : BitVec 5) (n : RegNum) (ia : BitVec 4) (m : RegNum) : Fields where
  dHigh := d.extractLsb' 4 1
  rn := n
  vd := d.extractLsb' 0 4
  size := 3#2
  indexAlign := ia
  rm := m

/-- The fields of the UNDEFINED pattern R71 (b). -/
def fieldsUndefAlign (d : BitVec 5) (n : RegNum) (ia : BitVec 2) (m : RegNum) : Fields where
  dHigh := d.extractLsb' 4 1
  rn := n
  vd := d.extractLsb' 0 4
  size := 2#2
  indexAlign := ia ++ 3#2
  rm := m

/-- The fields of an instruction (R65: the Offset variant has `Rm` 15, Post-indexed (immediate) has `Rm` 13). -/
def fieldsOf : Instr → Fields
  | .a1Offset d n i al | .t1Offset d n i al => fieldsSize8 d n i al 15#4
  | .a1PostImm d n i al | .t1PostImm d n i al => fieldsSize8 d n i al 13#4
  | .a1PostReg d n i al m | .t1PostReg d n i al m => fieldsSize8 d n i al m
  | .a2Offset d n i sp al | .t2Offset d n i sp al => fieldsSize16 d n i sp al 15#4
  | .a2PostImm d n i sp al | .t2PostImm d n i sp al => fieldsSize16 d n i sp al 13#4
  | .a2PostReg d n i sp al m | .t2PostReg d n i sp al m => fieldsSize16 d n i sp al m
  | .a3Offset d n i sp al | .t3Offset d n i sp al => fieldsSize32 d n i sp al 15#4
  | .a3PostImm d n i sp al | .t3PostImm d n i sp al => fieldsSize32 d n i sp al 13#4
  | .a3PostReg d n i sp al m | .t3PostReg d n i sp al m => fieldsSize32 d n i sp al m
  | .undefSizeA32 d n ia m | .undefSizeT32 d n ia m => fieldsUndefSize d n ia m
  | .undefAlignA32 d n ia m | .undefAlignT32 d n ia m => fieldsUndefAlign d n ia m

/-- The 32-bit value of an instruction (`hw1:hw2` for T32). -/
def encode (i : Instr) : Word := packFields i.instrSet (fieldsOf i)

/-- The bytes of a 32-bit value as fetch finds them at ascending addresses (R43). -/
def wordBytes (set : InstrSet) (w : Word) : List Byte :=
  match set with
  | .a32 => [w.extractLsb' 0 8, w.extractLsb' 8 8, w.extractLsb' 16 8, w.extractLsb' 24 8]
  | .t32 => [w.extractLsb' 16 8, w.extractLsb' 24 8, w.extractLsb' 0 8, w.extractLsb' 8 8]

/-- The bytes of an instruction. -/
def encodeBytes (i : Instr) : List Byte := wordBytes i.instrSet (encode i)

/-! ### The opcode table's own numbering -/

/-- Which instruction set a 32-bit value of the opcode table belongs to: T32 if it matches R62, else A32. -/
def tableSet (w : Word) : InstrSet := if w &&& spaceMask == spaceMatch .t32 then .t32 else .a32

/-- The value of `nbits` bits given by a number, every bit above them 0. -/
def tableValue (nbits w : Nat) : Word := BitVec.ofNat 32 (w % 2 ^ nbits)

/-- The instruction the decoder reads from a value numbered as spec/opcode_table.json numbers it (for T32, `hw1:hw2` with
`hw1` in bits 31:16): the bytes are laid out as the hardware stores them and given to the decoder. -/
def decodeTableWord (nbits w : Nat) : Option Instr :=
  match decode (tableSet (tableValue nbits w)) (wordBytes (tableSet (tableValue nbits w)) (tableValue nbits w)) with
  | .ok (i, _) => some i
  | .error _ => none

end Sys2Proof
end

