-- ==== Sys2Proof/Machine/State.lean ====
section
/-!
DEFINITION. Machine/State.lean: the state, as plain data; the fault outcomes and the refusals; the state after reset.

The spec has no reset (R38, R170, D16): a run starts from a launch state that gives every item a value, and every claim
ranges over launch states. `State.reset` is therefore one launch state the model names: the conventions of
95_test_vectors.md section 2 where they say a value, else zero (log entries 2 and 3).
-/

namespace Sys2Proof.Machine

/-- A byte memory: `(address, byte)` pairs, addresses strictly rising and below 2^32 (`Memory.wf`). An address that is not
listed has no value: the launch state may hold anything there (R38; log entry 4). -/
abbrev Memory := List Host.Cell

/-- The machine: everything the spec gives it (10_state.md R20 to R38, the parameters of 00_scope.md R6) and, last, the
model's own counter of draws. -/
structure State where
  /-- `R[0]` to `R[14]` (R20, R22, R38). `R[15]` is the `pc` (R38): `State.readR`. -/
  gpr : Vector Word 15
  /-- `pc`, the address of the instruction being executed (R25). -/
  pc : Word
  /-- `D[0]` to `D[31]` (R30). The `Q` and `S` views are computed from them (R32). -/
  dreg : Vector DWord 32
  /-- `PSTATE.N` (R26). -/
  flagN : Bool
  /-- `PSTATE.Z` (R26). -/
  flagZ : Bool
  /-- `PSTATE.C` (R26). -/
  flagC : Bool
  /-- `PSTATE.V` (R26). -/
  flagV : Bool
  /-- `PSTATE.EL` (R27). -/
  el : EL
  /-- `PSTATE.DIT` (R29, R173): about timing only, read by no functional rule. -/
  dit : Bool
  /-- `InstrSet` (R6, R28), `PSTATE.T`. -/
  instrSet : InstrSet
  /-- `CurrentCond` (R6, R13, D20), supplied per instruction: the condition of the instruction at an address. An address
  that is not listed has the default `1110`. -/
  conds : List (Nat × BitVec 4)
  /-- `AdvSIMDAccess` (R6, R142): the verdict of `CheckAdvSIMDEnabled()`. -/
  advSIMDAccess : AdvSIMDAccess
  /-- `CPACR` (R33, R34). -/
  cpacr : Word
  /-- `NSACR` (R33, R34). -/
  nsacr : Word
  /-- `HCPTR` (R33, R34). -/
  hcptr : Word
  /-- `FPEXC` (R34). -/
  fpexc : Word
  /-- The Security state (R35). -/
  security : SecurityState
  /-- The PE mode (R35). -/
  mode : PEMode
  /-- Whether EL3 uses AArch32, an input of the sketch of R142 and of R152. -/
  el3AArch32 : Bool
  /-- Whether EL2 is enabled in the current Security state, an input of the sketch of R142. -/
  el2Enabled : Bool
  /-- `BigEndianData` (R6, R29, R42), `PSTATE.E`. -/
  bigEndianData : Bool
  /-- `StrictAlign` (R6, R29, R45), `SCTLR.A` or `HSCTLR.A`. -/
  strictAlign : Bool
  /-- `MemAdmit` (R6, R48) as plain data. -/
  admitRules : List AdmitRule
  /-- `CUChoice` (R6, R121). -/
  cuChoice : CUChoice
  /-- The program text (R36, R56): a parameter of the run, read by fetch only. -/
  text : Memory
  /-- Data memory (R36, R40). -/
  mem : Memory
  /-- The MODEL's own: how many UNKNOWN values have been drawn (R14, D26: afresh at each use; log entry 9). -/
  draws : Nat
deriving DecidableEq, Repr

/-- The operation an access descriptor names (R47). -/
inductive MemOp where
  | load
  | store
deriving DecidableEq, Repr

/-- `AccessDescriptor` (R47), what `CreateAccDescASIMD` is given. -/
structure AccessDesc where
  op : MemOp
  nontemporal : Bool
  tagchecked : Bool
  privileged : Bool
deriving DecidableEq, Repr

/-- `FaultRecord` of an alignment fault (R144): the access descriptor and the address zero-extended to 64 bits. -/
structure FaultRecord where
  accdesc : AccessDesc
  vaddress : BitVec 64
deriving DecidableEq, Repr

/-- The fault outcomes (R14, R140). Each is terminal (R148, D15) and carries the state it leaves (R147), whose `pc` is that
of the faulting instruction (R97, R174). Stopping where the hardware enters a handler is SAFE (log entry 7). -/
inductive Fault where
  /-- "Undefined Instruction exception": raised by an UNDEFINED encoding (R141), by `CheckAdvSIMDEnabled()` (R142), and by
  a list past `D31` under `CUChoice = Undefined` (R121). Safe. -/
  | undefined (left : State)
  /-- "trapped to Hyp mode": raised by `CheckAdvSIMDEnabled()` (R142, R143). Safe. -/
  | hypTrap (left : State)
  /-- Data Abort, Alignment fault: raised by the instruction's own check (R44, R144) and by an unaligned element access
  under `StrictAlign` (R45, R145). Safe. -/
  | alignmentFault (record : FaultRecord) (left : State)
  /-- Data Abort at the first element `MemAdmit` refuses (R48, R145); the state left has the stored block UNKNOWN (R147).
  Safe. -/
  | dataAbort (addr : Word) (left : State)
deriving DecidableEq, Repr

/-- The state a fault leaves (R147). -/
def Fault.left : Fault → State
  | .undefined s => s
  | .hypTrap s => s
  | .alignmentFault _ s => s
  | .dataAbort _ s => s

/-- Why the model refuses (R174): no meaning is given, so nothing can be proved of such a run. Each is SAFE. -/
inductive Refusal where
  /-- An arm of `exec` that has no meaning yet raises it. No arm does. Safe. -/
  | notModelled (mnemonic : String)
  /-- Fetch raises it: a 32-bit word that is "not a VST4 single-lane encoding" (R17, R81, R174). Safe. -/
  | notVst4SingleLane (w : Word)
  /-- Fetch raises it: a 16-bit T32 instruction, so not this one (R17, R74). Safe. -/
  | narrowT32 (hw : Half)
  /-- Fetch raises it: the program text ends inside an instruction (R60). The model's choice, log entry 28. Safe. -/
  | truncatedText (pc : Word)
  /-- Fetch raises it: no program text at `pc`. The model's choice, log entry 28; a run that has executed its whole text has
  ended as `Completed` before (R174). Safe. -/
  | endOfText (pc : Word)
  /-- Fetch raises it: `pc` is not aligned for the instruction set (R25, R46). Safe. -/
  | misalignedPc (pc : Word)
  /-- VST4 raises it: base register 15, UNPREDICTABLE with no list of behaviours (R122, D12). Safe. -/
  | baseIsR15
  /-- VST4 raises it: a list past `D31` under `CUChoice = Refuse` (R121, D13). Safe. -/
  | listPastD31
  /-- VST4 raises it: the bytes it would write overlap the program text (R56, R125, D19). Safe. -/
  | storeOverlapsText (address : Word)
deriving DecidableEq, Repr

/-- What one execution answers. -/
abbrev Result := Host.Outcome State Fault Refusal

/-- The launch state the model names as its reset (log entries 2 and 3): the conventions of 95_test_vectors.md section 2,
the defaults of R6 (`CUChoice` `Refuse`, little-endian data, condition `1110`), `pc` where its program P1 starts, enable registers
that make R142's verdict `Enabled` (R171 (c)), all else zero or empty. -/
def State.reset : State where
  gpr := Vector.replicate 15 0#32
  pc := 0x00008000#32
  dreg := Vector.replicate 32 0#64
  flagN := false
  flagZ := false
  flagC := false
  flagV := false
  el := .el1
  dit := false
  instrSet := .a32
  conds := []
  advSIMDAccess := .enabled
  cpacr := 0x00F00000#32
  nsacr := 0x00000C00#32
  hcptr := 0x00000000#32
  fpexc := 0x40000000#32
  security := .nonSecure
  mode := .supervisor
  el3AArch32 := false
  el2Enabled := false
  bigEndianData := false
  strictAlign := false
  admitRules := []
  cuChoice := .refuse
  text := []
  mem := []
  draws := 0

end Sys2Proof.Machine
end

