-- ==== Sys2Proof/Machine/Flags.lean ====
section
/-!
DEFINITION. Machine/Flags.lean: the condition test (00_scope.md R13). The instruction writes no flag (R26, R98); it reads
N, Z, C, V through `ConditionPassed()` only.
-/

namespace Sys2Proof.Machine

/-- The condition that `cond[3:1]` selects (R13). -/
def baseCondition (sel : BitVec 3) (n z c v : Bool) : Bool :=
  if sel == 0#3 then z
  else if sel == 1#3 then c
  else if sel == 2#3 then n
  else if sel == 3#3 then v
  else if sel == 4#3 then c && !z
  else if sel == 5#3 then n == v
  else if sel == 6#3 then (n == v) && !z
  else true

/-- A 4-bit condition of the flags (R13): `cond[0] == 1` inverts, but for `1111`. -/
def conditionHolds (cond : BitVec 4) (n z c v : Bool) : Bool :=
  if cond.extractLsb' 0 1 == 1#1 && cond != 15#4 then !(baseCondition (cond.extractLsb' 1 3) n z c v)
  else baseCondition (cond.extractLsb' 1 3) n z c v

/-- `ConditionPassed()` for a given `CurrentCond` (R13, R26). -/
def State.conditionPassed (s : State) (cond : BitVec 4) : Bool :=
  conditionHolds cond s.flagN s.flagZ s.flagC s.flagV

/-- `1110`: always (R6, R13). Every A32 form is unconditional (R76, C3). -/
def condAlways : BitVec 4 := 14#4

/-- `CurrentCond` of the instruction at `pc` in T32 (R6, R13, D20): as supplied for that address, else `1110`. -/
def State.currentCond (s : State) : BitVec 4 := (s.conds.lookup s.pc.toNat).getD condAlways

/-- Where a T32 instruction takes `CurrentCond` from (R13): for whoever supplies it from an IT block. The machine itself
does not hold `ITSTATE` (R28, D5, D20; log entry 8). -/
def condOfITState (itstate : BitVec 8) : BitVec 4 :=
  if itstate.extractLsb' 0 4 == 0#4 then condAlways else itstate.extractLsb' 4 4

end Sys2Proof.Machine
end

