-- ==== Sys2Proof/Machine/Operands.lean ====
section
/-!
DEFINITION. Machine/Operands.lean: the registers as the instruction names them, the lane selection, and the decode constants
of R15 for every encoding (30_encoding.md R65 to R70).
-/

namespace Sys2Proof.Machine

/-! ### Registers -/

/-- `R[i]` (R10, R20). `R[15]` is the `pc` (R38; log entry 10); no instruction reads it (R24). -/
def State.readR (s : State) (i : RegNum) : Word := if h : i.toNat < 15 then s.gpr[i.toNat] else s.pc

/-- `R[i] <- v` (R10). No instruction writes `R[15]` (R24). -/
def State.writeR (s : State) (i : RegNum) (v : Word) : State :=
  { s with
    gpr := if h : i.toNat < 15 then s.gpr.set i.toNat v else s.gpr
    pc := if i.toNat < 15 then s.pc else v }

/-- `D[i]` (R10, R30). Register numbers above 31 do not exist; the instruction has stopped before it would read one (R72),
so the value given for them is never used. -/
def State.readD (s : State) (i : Nat) : DWord := (s.dreg[i]?).getD 0#64

/-- The 128-bit view `Q[i] = D[2i+1]:D[2i]`, `i` in 0 to 15 (R32). -/
def State.readQ (s : State) (i : Fin 16) : BitVec 128 := s.readD (2 * i.val + 1) ++ s.readD (2 * i.val)

/-- The 32-bit view: `D[i] = S[2i+1]:S[2i]` for `D0` to `D15` (R32). -/
def State.readS (s : State) (i : Fin 32) : Word := (s.readD (i.val / 2)).extractLsb' (32 * (i.val % 2)) 32

/-- `Elem(v, e, size)` (R11): element `e` of `size` bits, element 0 least significant. -/
def elem (v : DWord) (e size : Nat) : BitVec size := v.extractLsb' (e * size) size

/-! ### Decode constants -/

/-- The decode constants (R15). Integers are unbounded (R9): `d4` can exceed 31. -/
structure DecodeConsts where
  ebytes : Nat
  index : Nat
  inc : Nat
  alignment : Nat
  d : Nat
  n : RegNum
  m : RegNum
deriving DecidableEq, Repr

/-- The register number of list element `k` (R70): `d`, `d2`, `d3`, `d4` for `k` = 0, 1, 2, 3. -/
def DecodeConsts.listReg (c : DecodeConsts) (k : Nat) : Nat := c.d + k * c.inc

/-- `d4` (R70). -/
def DecodeConsts.d4 (c : DecodeConsts) : Nat := c.listReg 3

/-- `wback = (m != 15)` (R65). -/
def DecodeConsts.wback (c : DecodeConsts) : Bool := c.m != 15#4

/-- `register_index = (m != 15 && m != 13)` (R65). -/
def DecodeConsts.registerIndex (c : DecodeConsts) : Bool := c.m != 15#4 && c.m != 13#4

/-- `4*ebytes`, the size of the transfer (R47) and the immediate increment (R96). -/
def DecodeConsts.transferBytes (c : DecodeConsts) : Nat := 4 * c.ebytes

/-- `inc` from the spacing (R67, R68, R78). -/
def incOf : Spacing → Nat
  | .single => 1
  | .double => 2

/-- `alignment`, in bytes, for size 32 (R68, C6). -/
def alignmentOf32 : Align32 → Nat
  | .standard => 1
  | .bits64 => 8
  | .bits128 => 16

/-- A1, T1 (R66). -/
def constsSize8 (d : BitVec 5) (n : RegNum) (i : BitVec 3) (al : Bool) (m : RegNum) : DecodeConsts where
  ebytes := 1
  index := i.toNat
  inc := 1
  alignment := if al then 4 else 1
  d := d.toNat
  n := n
  m := m

/-- A2, T2 (R67). -/
def constsSize16 (d : BitVec 5) (n : RegNum) (i : BitVec 2) (sp : Spacing) (al : Bool) (m : RegNum) : DecodeConsts where
  ebytes := 2
  index := i.toNat
  inc := incOf sp
  alignment := if al then 8 else 1
  d := d.toNat
  n := n
  m := m

/-- A3, T3 (R68). -/
def constsSize32 (d : BitVec 5) (n : RegNum) (i : BitVec 1) (sp : Spacing) (al : Align32) (m : RegNum) : DecodeConsts where
  ebytes := 4
  index := i.toNat
  inc := incOf sp
  alignment := alignmentOf32 al
  d := d.toNat
  n := n
  m := m

/-- The decode constants of a store instruction: `none` for the UNDEFINED patterns (R66 to R70). -/
def consts? : Instr → Option DecodeConsts
  | .a1Offset d n i al | .t1Offset d n i al => some (constsSize8 d n i al 15#4)
  | .a1PostImm d n i al | .t1PostImm d n i al => some (constsSize8 d n i al 13#4)
  | .a1PostReg d n i al m | .t1PostReg d n i al m => some (constsSize8 d n i al m)
  | .a2Offset d n i sp al | .t2Offset d n i sp al => some (constsSize16 d n i sp al 15#4)
  | .a2PostImm d n i sp al | .t2PostImm d n i sp al => some (constsSize16 d n i sp al 13#4)
  | .a2PostReg d n i sp al m | .t2PostReg d n i sp al m => some (constsSize16 d n i sp al m)
  | .a3Offset d n i sp al | .t3Offset d n i sp al => some (constsSize32 d n i sp al 15#4)
  | .a3PostImm d n i sp al | .t3PostImm d n i sp al => some (constsSize32 d n i sp al 13#4)
  | .a3PostReg d n i sp al m | .t3PostReg d n i sp al m => some (constsSize32 d n i sp al m)
  | .undefSizeA32 .. | .undefAlignA32 .. | .undefSizeT32 .. | .undefAlignT32 .. => none

end Sys2Proof.Machine
end

