-- ==== Sys2Proof/Machine/Ops.lean ====
section
/-!
DEFINITION. Machine/Ops.lean: memory, the checks of a store, taking a fault, fetch, and the one Operation that all eighteen
variants share (40_vst4_single_lane.md R90 to R97).
-/

namespace Sys2Proof.Machine

/-! ### Memory -/

/-- The byte at an address, if one is listed (log entry 4). -/
def Memory.read : Memory → Nat → Option Byte
  | [], _ => none
  | (k, v) :: rest, a => if k = a then some v else Memory.read rest a

/-- Put one byte at an address, keeping the addresses rising. -/
def Memory.write : Memory → Nat → Byte → Memory
  | [], a, b => [(a, b)]
  | (k, v) :: rest, a, b =>
    if a < k then (a, b) :: (k, v) :: rest
    else if a = k then (a, b) :: rest
    else (k, v) :: Memory.write rest a b

/-- The canonical form from an address on: strictly rising, inside the 32-bit address space (R40). -/
def Memory.wfFrom : Nat → Memory → Bool
  | _, [] => true
  | lo, (k, _) :: rest => decide (lo ≤ k) && decide (k < 2 ^ 32) && Memory.wfFrom (k + 1) rest

/-- The canonical form of a memory. -/
def Memory.wf (m : Memory) : Bool := Memory.wfFrom 0 m

/-- Put bytes at ascending addresses, modulo 2^32 (R12, R41). -/
def Memory.writeBytes : Memory → Word → List Byte → Memory
  | m, _, [] => m
  | m, a, b :: rest => Memory.writeBytes (Memory.write m a.toNat b) (a + 1#32) rest

/-- Read as many of `k` bytes at ascending addresses, modulo 2^32, as are listed without a gap. -/
def Memory.readPrefix : Memory → Word → Nat → List Byte
  | _, _, 0 => []
  | m, a, k + 1 =>
    match Memory.read m a.toNat with
    | some b => b :: Memory.readPrefix m (a + 1#32) k
    | none => []

/-- Byte `j`, from the lowest address, of an `n`-byte value in memory (R42). -/
def orderedByte (bigEndian : Bool) (n : Nat) (v : BitVec (8 * n)) (j : Nat) : Byte :=
  v.extractLsb' (8 * (if bigEndian then n - 1 - j else j)) 8

/-- The `n` bytes of a value at ascending addresses (R42). -/
def orderedBytes (bigEndian : Bool) (n : Nat) (v : BitVec (8 * n)) : List Byte :=
  (List.range n).map (orderedByte bigEndian n v)

/-- `MemWrite(addr, n, v)` once its checks have passed (R12, R42). An unaligned access that is performed is `n` single-byte
writes in the same order (R45), so the two are one definition. -/
def memWrite (bigEndian : Bool) (a : Word) (n : Nat) (v : BitVec (8 * n)) (m : Memory) : Memory :=
  m.writeBytes a (orderedBytes bigEndian n v)

/-- The `n`-byte value whose bytes, from the lowest address, are given (R42). -/
def joinBytes (bigEndian : Bool) (n : Nat) (bs : List Byte) : BitVec (8 * n) :=
  (List.range n).foldl
    (fun v j => v ||| ((bs[j]?).getD 0#8).setWidth (8 * n) <<< (8 * (if bigEndian then n - 1 - j else j))) 0#(8 * n)

/-- `MemRead(addr, n)` (R12), the counterpart of `MemWrite`: the value at an address where every byte is listed. No
instruction reads data memory (R12, R36). -/
def memRead (bigEndian : Bool) (a : Word) (n : Nat) (m : Memory) : Option (BitVec (8 * n)) :=
  if (m.readPrefix a n).length = n then some (joinBytes bigEndian n (m.readPrefix a n)) else none

/-! ### State updates -/

/-- `pc <- v` (R14). -/
def State.setPc (s : State) (v : Word) : State := { s with pc := v }

/-- `pc <- (pc + 4) mod 2^32` (R25, R97). -/
def State.advancePc (s : State) : State := s.setPc (s.pc + 4#32)

/-- Replace data memory. -/
def State.setMem (s : State) (m : Memory) : State := { s with mem := m }

/-! ### UNKNOWN values -/

/-- `len` UNKNOWN bytes, each a draw of its own, from draw number `start` (R14, D26). -/
def unknownBytes (start len : Nat) : List Byte := (List.range len).map fun j => Config.unknownByte (start + j)

/-- The `len` bytes from an address become UNKNOWN (R121, R147). -/
def State.drawBlock (s : State) (a : Word) (len : Nat) : State :=
  { s with mem := s.mem.writeBytes a (unknownBytes s.draws len), draws := s.draws + len }

/-- A general-purpose register becomes UNKNOWN (R121). -/
def State.drawR (s : State) (i : RegNum) : State :=
  { s.writeR i (Config.unknownWord s.draws) with draws := s.draws + 1 }

/-! ### Taking a fault -/

/-- Taking an exception, the one operation for all of them. The spec gives no vector, no saved register and no status, and
makes every fault outcome terminal (R148, D15): the outcome and the state it leaves are the answer (R147; log entry 7).
There is no return from one (R149). -/
def raise (mk : State → Fault) (s : State) : Result := .fault (mk s)

/-! ### The checks of a store -/

/-- `IsAligned(a, k)`: `UInt(a) mod k == 0` (R12). -/
def isAligned (a : Word) (k : Nat) : Bool := a.toNat % k == 0

/-- `privileged = PSTATE.EL != EL0` (R27, R152). -/
def State.privileged (s : State) : Bool := s.el != .el0

/-- The descriptor of all four accesses and of the alignment fault (R47). -/
def State.accessDesc (s : State) : AccessDesc where
  op := .store
  nontemporal := false
  tagchecked := false
  privileged := s.privileged

/-- `AlignmentFault(accdesc, ZeroExtend(address, 64))` (R44, R144). -/
def State.alignmentRecord (s : State) (address : Word) : FaultRecord where
  accdesc := s.accessDesc
  vaddress := address.setWidth 64

/-- Whether a row of `MemAdmit` answers for an access (R48). -/
def admitRuleApplies (r : AdmitRule) (a : Word) (size : Nat) (privileged write : Bool) : Bool :=
  decide (r.first.toNat ≤ a.toNat) && decide (a.toNat ≤ r.last.toNat) && (r.size == none || r.size == some size) &&
    (r.privileged == none || r.privileged == some privileged) && (r.write == none || r.write == some write)

/-- `MemAdmit(a, size, privileged, write)` (R6, R48): the answer of the first row that applies, `Ok` where none does
(log entry 5). -/
def memAdmit (rules : List AdmitRule) (a : Word) (size : Nat) (privileged write : Bool) : Admit :=
  match rules with
  | [] => .ok
  | r :: rest =>
    if admitRuleApplies r a size privileged write then r.answer else memAdmit rest a size privileged write

/-- The address of element `k` (R41): `address + k*ebytes` modulo 2^32. -/
def elementAddress (address : Word) (ebytes k : Nat) : Word := address + BitVec.ofNat 32 (k * ebytes)

/-- Is element `k` of a store at `address` admitted (R47, R48). -/
def State.elementAdmitted (s : State) (address : Word) (ebytes k : Nat) : Bool :=
  memAdmit s.admitRules (elementAddress address ebytes k) ebytes s.accessDesc.privileged (s.accessDesc.op == .store) == .ok

/-- The address of the first of the elements, in the order of the stores, that `MemAdmit` refuses (R145, R146). -/
def State.firstRefused (s : State) (address : Word) (ebytes : Nat) : Option Word :=
  ([0, 1, 2, 3].find? fun k => !s.elementAdmitted address ebytes k).map (elementAddress address ebytes)

/-- Do the `len` bytes from an address overlap the program text (R56, R125). -/
def State.overlapsText (s : State) (address : Word) (len : Nat) : Bool :=
  (List.range len).any fun j => (s.text.read (address + BitVec.ofNat 32 j).toNat).isSome

/-! ### The Operation -/

/-- The element list register `k` stores (R11, R95). -/
def State.storedElem (s : State) (c : DecodeConsts) (k : Nat) : BitVec (8 * c.ebytes) :=
  elem (s.readD (c.listReg k)) c.index (8 * c.ebytes)

/-- One of the four stores (R95). -/
def State.storeElem (s : State) (c : DecodeConsts) (address : Word) (k : Nat) (m : Memory) : Memory :=
  memWrite s.bigEndianData (elementAddress address c.ebytes k) c.ebytes (s.storedElem c k) m

/-- The four stores, in order (R53, R95). -/
def State.storeElems (s : State) (c : DecodeConsts) (address : Word) : Memory :=
  s.storeElem c address 3 (s.storeElem c address 2 (s.storeElem c address 1 (s.storeElem c address 0 s.mem)))

/-- What is added to `R[n]` (R96): `R[m]`, or `4*ebytes`. -/
def State.increment (s : State) (c : DecodeConsts) : Word :=
  if c.registerIndex then s.readR c.m else BitVec.ofNat 32 c.transferBytes

/-- Writeback (R96). -/
def State.writeback (s : State) (c : DecodeConsts) : State :=
  if c.wback then s.writeR c.n (s.readR c.n + s.increment c) else s

/-- Steps (7) to (9) of R91 once every write is admitted: the stores, the writeback, the `pc`. -/
def State.complete (s : State) (c : DecodeConsts) (address : Word) : State :=
  ((s.setMem (s.storeElems c address)).writeback c).advancePc

/-- Step (7) of R91 with its faults, in the order of R146: the first element unaligned under `StrictAlign` (R45), a store
over the program text (refused, R56; log entry 11), an element `MemAdmit` refuses (R48, R147). -/
def storeStructure (c : DecodeConsts) (address : Word) (s : State) : Result :=
  if s.strictAlign && !isAligned address c.ebytes then raise (.alignmentFault (s.alignmentRecord address)) s
  else if s.overlapsText address c.transferBytes then .refused (.storeOverlapsText address)
  else
    match s.firstRefused address c.ebytes with
    | some a => raise (.dataAbort a) (s.drawBlock address c.transferBytes)
    | none => .next (s.complete c address)

/-- Steps (5) and (6) of R91: the base address and the instruction's own alignment test (R94). -/
def alignedStore (c : DecodeConsts) (s : State) : Result :=
  if isAligned (s.readR c.n) c.alignment then storeStructure c (s.readR c.n) s
  else raise (.alignmentFault (s.alignmentRecord (s.readR c.n))) s

/-- Step (4) of R91: `CheckAdvSIMDEnabled()` (R93, R142), then the rest. -/
def checkedStore (c : DecodeConsts) (s : State) : Result :=
  match s.advSIMDAccess with
  | .enabled => alignedStore c s
  | .undefined => raise .undefined s
  | .hypTrap => raise .hypTrap s

/-- What becomes UNKNOWN under `CUChoice = Unknown` (R121, C4): the bytes the instruction specifies, and `R[n]` if it
specifies writeback. -/
def State.drawUnknown (s : State) (c : DecodeConsts) : State :=
  if c.wback then (s.drawBlock (s.readR c.n) c.transferBytes).drawR c.n
  else s.drawBlock (s.readR c.n) c.transferBytes

/-- A register list past `D31` (R121): the behaviour that `CUChoice` names. -/
def listPastEnd (c : DecodeConsts) (s : State) : Result :=
  match s.cuChoice with
  | .refuse => .refused .listPastD31
  | .undefined => raise .undefined s
  | .nop => .next s.advancePc
  | .unknown =>
    if s.overlapsText (s.readR c.n) c.transferBytes then .refused (.storeOverlapsText (s.readR c.n))
    else .next (s.drawUnknown c).advancePc

/-- The Operation of all eighteen variants (R90, R91) under a given `CurrentCond`: the UNPREDICTABLE tests (R72, R122, R121;
log entry 12 for both at once), the condition (R92), then the checked store. -/
def vst4 (cond : BitVec 4) (c : DecodeConsts) (s : State) : Result :=
  if c.n == 15#4 then .refused .baseIsR15
  else if 31 < c.d4 then listPastEnd c s
  else if s.conditionPassed cond then checkedStore c s
  else .next s.advancePc

/-- The Operation in A32: `CurrentCond` is `1110` (R13, R76). -/
def vst4A32 (c : DecodeConsts) (s : State) : Result := vst4 condAlways c s

/-- The Operation in T32: `CurrentCond` as supplied (R13). -/
def vst4T32 (c : DecodeConsts) (s : State) : Result := vst4 s.currentCond c s

/-! ### Fetch -/

/-- `pc` is a multiple of 4 in A32 and of 2 in T32 (R25, R46). -/
def State.pcAligned (s : State) : Bool :=
  match s.instrSet with
  | .a32 => isAligned s.pc 4
  | .t32 => isAligned s.pc 2

/-- The bytes of program text at `pc`, up to the longest instruction (R43, R56, R60). -/
def State.fetchBytes (s : State) : List Byte := s.text.readPrefix s.pc 4

/-- The refusal that goes with what the decoder says. -/
def refusalOf (pc : Word) : DecodeRefusal → Refusal
  | .truncated => .truncatedText pc
  | .narrowT32 hw => .narrowT32 hw
  | .notVst4SingleLane w => .notVst4SingleLane w

/-- Fetch and decode the instruction at `pc` (R17, R46, R174). -/
def State.fetchInstr (s : State) : Except Refusal Instr :=
  if !s.pcAligned then .error (.misalignedPc s.pc)
  else if s.fetchBytes.isEmpty then .error (.endOfText s.pc)
  else
    match decode s.instrSet s.fetchBytes with
    | .ok (i, _) => .ok i
    | .error e => .error (refusalOf s.pc e)

end Sys2Proof.Machine
end

