-- ==== Sys2Proof/Machine/Undefined.lean ====
section
/-!
DEFINITION. Machine/Undefined.lean: the four UNDEFINED patterns of the opcode space (R71, R141). The test is on the bits alone, before the
condition and the enable test (R146, D14; log entry 13).
-/

namespace Sys2Proof.Machine

/-- UNDEFINED in A32, R71 (a): the outcome `Undefined`, nothing changes (R141). -/
def execUndefSizeA32 (_d : BitVec 5) (_n : RegNum) (_ia : BitVec 4) (_m : RegNum) (s : State) : Result := raise .undefined s

/-- UNDEFINED in A32, R71 (b): the outcome `Undefined`, nothing changes (R141). -/
def execUndefAlignA32 (_d : BitVec 5) (_n : RegNum) (_ia : BitVec 2) (_m : RegNum) (s : State) : Result := raise .undefined s

/-- UNDEFINED in T32, R71 (a): the outcome `Undefined`, nothing changes (R141). -/
def execUndefSizeT32 (_d : BitVec 5) (_n : RegNum) (_ia : BitVec 4) (_m : RegNum) (s : State) : Result := raise .undefined s

/-- UNDEFINED in T32, R71 (b): the outcome `Undefined`, nothing changes (R141). -/
def execUndefAlignT32 (_d : BitVec 5) (_n : RegNum) (_ia : BitVec 2) (_m : RegNum) (s : State) : Result := raise .undefined s

end Sys2Proof.Machine
end

