-- ==== Sys2Proof/Machine/Vst4A32.lean ====
section
/-!
DEFINITION. Machine/Vst4A32.lean: the nine A32 variants (R100 to R108), one definition each over the shared Operation.
-/

namespace Sys2Proof.Machine

/-- `VST4.8`, A1 Offset (R100): four bytes, no register written. -/
def execA1Offset (d : BitVec 5) (n : RegNum) (i : BitVec 3) (al : Bool) (s : State) : Result :=
  vst4A32 (constsSize8 d n i al 15#4) s

/-- `VST4.8`, A1 Post-indexed (immediate) (R101): four bytes, then `R[n] <- R[n] + 4`. -/
def execA1PostImm (d : BitVec 5) (n : RegNum) (i : BitVec 3) (al : Bool) (s : State) : Result :=
  vst4A32 (constsSize8 d n i al 13#4) s

/-- `VST4.8`, A1 Post-indexed (register) (R102): four bytes, then `R[n] <- R[n] + R[m]`. -/
def execA1PostReg (d : BitVec 5) (n : RegNum) (i : BitVec 3) (al : Bool) (m : RegNum) (s : State) : Result :=
  vst4A32 (constsSize8 d n i al m) s

/-- `VST4.16`, A2 Offset (R103): four halfwords, no register written. -/
def execA2Offset (d : BitVec 5) (n : RegNum) (i : BitVec 2) (sp : Spacing) (al : Bool) (s : State) : Result :=
  vst4A32 (constsSize16 d n i sp al 15#4) s

/-- `VST4.16`, A2 Post-indexed (immediate) (R104): four halfwords, then `R[n] <- R[n] + 8`. -/
def execA2PostImm (d : BitVec 5) (n : RegNum) (i : BitVec 2) (sp : Spacing) (al : Bool) (s : State) : Result :=
  vst4A32 (constsSize16 d n i sp al 13#4) s

/-- `VST4.16`, A2 Post-indexed (register) (R105): four halfwords, then `R[n] <- R[n] + R[m]`. -/
def execA2PostReg (d : BitVec 5) (n : RegNum) (i : BitVec 2) (sp : Spacing) (al : Bool) (m : RegNum) (s : State) : Result :=
  vst4A32 (constsSize16 d n i sp al m) s

/-- `VST4.32`, A3 Offset (R106): four words, no register written. -/
def execA3Offset (d : BitVec 5) (n : RegNum) (i : BitVec 1) (sp : Spacing) (al : Align32) (s : State) : Result :=
  vst4A32 (constsSize32 d n i sp al 15#4) s

/-- `VST4.32`, A3 Post-indexed (immediate) (R107): four words, then `R[n] <- R[n] + 16`. -/
def execA3PostImm (d : BitVec 5) (n : RegNum) (i : BitVec 1) (sp : Spacing) (al : Align32) (s : State) : Result :=
  vst4A32 (constsSize32 d n i sp al 13#4) s

/-- `VST4.32`, A3 Post-indexed (register) (R108): four words, then `R[n] <- R[n] + R[m]`. -/
def execA3PostReg (d : BitVec 5) (n : RegNum) (i : BitVec 1) (sp : Spacing) (al : Align32) (m : RegNum) (s : State) : Result :=
  vst4A32 (constsSize32 d n i sp al m) s

end Sys2Proof.Machine
end

