-- ==== Sys2Proof/Machine/Vst4T32.lean ====
section
/-!
DEFINITION. Machine/Vst4T32.lean: the nine T32 variants (R109 to R117), one definition each over the shared Operation, under the supplied condition.
-/

namespace Sys2Proof.Machine

/-- `VST4.8`, T1 Offset (R109): four bytes, no register written. -/
def execT1Offset (d : BitVec 5) (n : RegNum) (i : BitVec 3) (al : Bool) (s : State) : Result :=
  vst4T32 (constsSize8 d n i al 15#4) s

/-- `VST4.8`, T1 Post-indexed (immediate) (R110): four bytes, then `R[n] <- R[n] + 4`. -/
def execT1PostImm (d : BitVec 5) (n : RegNum) (i : BitVec 3) (al : Bool) (s : State) : Result :=
  vst4T32 (constsSize8 d n i al 13#4) s

/-- `VST4.8`, T1 Post-indexed (register) (R111): four bytes, then `R[n] <- R[n] + R[m]`. -/
def execT1PostReg (d : BitVec 5) (n : RegNum) (i : BitVec 3) (al : Bool) (m : RegNum) (s : State) : Result :=
  vst4T32 (constsSize8 d n i al m) s

/-- `VST4.16`, T2 Offset (R112): four halfwords, no register written. -/
def execT2Offset (d : BitVec 5) (n : RegNum) (i : BitVec 2) (sp : Spacing) (al : Bool) (s : State) : Result :=
  vst4T32 (constsSize16 d n i sp al 15#4) s

/-- `VST4.16`, T2 Post-indexed (immediate) (R113): four halfwords, then `R[n] <- R[n] + 8`. -/
def execT2PostImm (d : BitVec 5) (n : RegNum) (i : BitVec 2) (sp : Spacing) (al : Bool) (s : State) : Result :=
  vst4T32 (constsSize16 d n i sp al 13#4) s

/-- `VST4.16`, T2 Post-indexed (register) (R114): four halfwords, then `R[n] <- R[n] + R[m]`. -/
def execT2PostReg (d : BitVec 5) (n : RegNum) (i : BitVec 2) (sp : Spacing) (al : Bool) (m : RegNum) (s : State) : Result :=
  vst4T32 (constsSize16 d n i sp al m) s

/-- `VST4.32`, T3 Offset (R115): four words, no register written. -/
def execT3Offset (d : BitVec 5) (n : RegNum) (i : BitVec 1) (sp : Spacing) (al : Align32) (s : State) : Result :=
  vst4T32 (constsSize32 d n i sp al 15#4) s

/-- `VST4.32`, T3 Post-indexed (immediate) (R116): four words, then `R[n] <- R[n] + 16`. -/
def execT3PostImm (d : BitVec 5) (n : RegNum) (i : BitVec 1) (sp : Spacing) (al : Align32) (s : State) : Result :=
  vst4T32 (constsSize32 d n i sp al 13#4) s

/-- `VST4.32`, T3 Post-indexed (register) (R117): four words, then `R[n] <- R[n] + R[m]`. -/
def execT3PostReg (d : BitVec 5) (n : RegNum) (i : BitVec 1) (sp : Spacing) (al : Align32) (m : RegNum) (s : State) : Result :=
  vst4T32 (constsSize32 d n i sp al m) s

end Sys2Proof.Machine
end

