-- ==== Sys2Proof/Machine/Dispatch.lean ====
section
/-!
DEFINITION. Machine/Dispatch.lean: one arm per instruction, each one call of its meaning.
-/

namespace Sys2Proof.Machine

def exec (i : Instr) (s : State) : Host.Outcome State Fault Refusal :=
  match i with
  | .a1Offset d n x al => Sys2Proof.Machine.execA1Offset d n x al s
  | .a1PostImm d n x al => Sys2Proof.Machine.execA1PostImm d n x al s
  | .a1PostReg d n x al m => Sys2Proof.Machine.execA1PostReg d n x al m s
  | .a2Offset d n x sp al => Sys2Proof.Machine.execA2Offset d n x sp al s
  | .a2PostImm d n x sp al => Sys2Proof.Machine.execA2PostImm d n x sp al s
  | .a2PostReg d n x sp al m => Sys2Proof.Machine.execA2PostReg d n x sp al m s
  | .a3Offset d n x sp al => Sys2Proof.Machine.execA3Offset d n x sp al s
  | .a3PostImm d n x sp al => Sys2Proof.Machine.execA3PostImm d n x sp al s
  | .a3PostReg d n x sp al m => Sys2Proof.Machine.execA3PostReg d n x sp al m s
  | .t1Offset d n x al => Sys2Proof.Machine.execT1Offset d n x al s
  | .t1PostImm d n x al => Sys2Proof.Machine.execT1PostImm d n x al s
  | .t1PostReg d n x al m => Sys2Proof.Machine.execT1PostReg d n x al m s
  | .t2Offset d n x sp al => Sys2Proof.Machine.execT2Offset d n x sp al s
  | .t2PostImm d n x sp al => Sys2Proof.Machine.execT2PostImm d n x sp al s
  | .t2PostReg d n x sp al m => Sys2Proof.Machine.execT2PostReg d n x sp al m s
  | .t3Offset d n x sp al => Sys2Proof.Machine.execT3Offset d n x sp al s
  | .t3PostImm d n x sp al => Sys2Proof.Machine.execT3PostImm d n x sp al s
  | .t3PostReg d n x sp al m => Sys2Proof.Machine.execT3PostReg d n x sp al m s
  | .undefSizeA32 d n ia m => Sys2Proof.Machine.execUndefSizeA32 d n ia m s
  | .undefAlignA32 d n ia m => Sys2Proof.Machine.execUndefAlignA32 d n ia m s
  | .undefSizeT32 d n ia m => Sys2Proof.Machine.execUndefSizeT32 d n ia m s
  | .undefAlignT32 d n ia m => Sys2Proof.Machine.execUndefAlignT32 d n ia m s

end Sys2Proof.Machine
end

