-- ==== Sys2Proof/Machine/Step.lean ====
section
/-!
DEFINITION. Machine/Step.lean: one step of the one agent (R17): fetch at `pc`, decode, execute. The instruction moves the
`pc` itself (R97).
-/

namespace Sys2Proof.Machine

/-- One step (R17). -/
def step (s : State) : Host.Outcome State Fault Refusal :=
  match s.fetchInstr with
  | .ok i => exec i s
  | .error r => .refused r

/-- The state with an instruction, numbered as spec/opcode_table.json numbers it, in the program text at `pc` and the
instruction set it belongs to. A program is loaded from outside the machine: the program text is a parameter of the run
(R36, R38, R56; log entry 14). -/
def State.withFetchWord (s : State) (nbits w : Nat) : State :=
  { s with
    instrSet := tableSet (tableValue nbits w)
    text := s.text.writeBytes s.pc (wordBytes (tableSet (tableValue nbits w)) (tableValue nbits w)) }

end Sys2Proof.Machine
end

