-- ==== Sys2Proof/Machine/Assembly.lean ====
section
/-!
DEFINITION. Machine/Assembly.lean: the assembler syntax (30_encoding.md R75 to R80) as structured text, with the assembler's
checks, and the way back. The spelling of the characters is left out (log entry 15).
-/

namespace Sys2Proof.Machine

/-- `<q>` (R76): omitted, `.N` or `.W`. -/
inductive AsmQualifier where
  | omitted
  | narrow
  | wide
deriving DecidableEq, Repr

/-- The tail of the three templates (R75): `]`, `]!`, or `], <Rm>`. -/
inductive AsmTail where
  | offset
  | postImm
  | postReg (m : Nat)
deriving DecidableEq, Repr

/-- `VST4{<c>}{<q>}.<size> <list>, [<Rn>{:<align>}]` and its tail (R75). A list element is a register number of `D0` to
`D31` and an index; `<align>` is in bits. -/
structure Asm where
  set : InstrSet
  cond : Option (BitVec 4)
  qualifier : AsmQualifier
  size : Nat
  list : List (Nat × Nat)
  base : Nat
  align : Option Nat
  tail : AsmTail
deriving DecidableEq, Repr

/-- The condition `<c>` gives (R76): in A32 omitted or `AL`; in T32 any, `AL` when omitted. -/
def asmCond (set : InstrSet) (cond : Option (BitVec 4)) : Option (BitVec 4) :=
  match set, cond with
  | _, none => some condAlways
  | .a32, some c => if c == condAlways then some c else none
  | .t32, some c => some c

/-- `<list>` (R78): four registers of `D0` to `D31`, single- or double-spaced, the same index on all. -/
def asmList (l : List (Nat × Nat)) : Option (BitVec 5 × Nat × Spacing) :=
  match l with
  | [(d, i), (d2, i2), (d3, i3), (d4, i4)] =>
    if i2 == i && i3 == i && i4 == i && decide (d4 ≤ 31) then
      if d2 == d + 1 && d3 == d + 2 && d4 == d + 3 then some (BitVec.ofNat 5 d, i, .single)
      else if d2 == d + 2 && d3 == d + 4 && d4 == d + 6 then some (BitVec.ofNat 5 d, i, .double)
      else none
    else none
  | _ => none

/-- The `Rm` field of a tail (R65, R80): 15, 13, or an index register that is neither. -/
def asmRm : AsmTail → Option RegNum
  | .offset => some 15#4
  | .postImm => some 13#4
  | .postReg m => if decide (m < 16) && isIndexReg (BitVec.ofNat 4 m) then some (BitVec.ofNat 4 m) else none

/-- The fields for a size (R77 to R79): index range, spacing (no double spacing for size 8) and `<align>`. -/
def asmFields (size : Nat) (d : BitVec 5) (i : Nat) (sp : Spacing) (n : RegNum) (align : Option Nat) (m : RegNum) :
    Option Fields :=
  if size = 8 then
    if i < 8 ∧ sp = .single then
      match align with
      | none => some (fieldsSize8 d n (BitVec.ofNat 3 i) false m)
      | some a => if a = 32 then some (fieldsSize8 d n (BitVec.ofNat 3 i) true m) else none
    else none
  else if size = 16 then
    if i < 4 then
      match align with
      | none => some (fieldsSize16 d n (BitVec.ofNat 2 i) sp false m)
      | some a => if a = 64 then some (fieldsSize16 d n (BitVec.ofNat 2 i) sp true m) else none
    else none
  else if size = 32 then
    if i < 2 then
      match align with
      | none => some (fieldsSize32 d n (BitVec.ofNat 1 i) sp .standard m)
      | some a =>
        if a = 64 then some (fieldsSize32 d n (BitVec.ofNat 1 i) sp .bits64 m)
        else if a = 128 then some (fieldsSize32 d n (BitVec.ofNat 1 i) sp .bits128 m)
        else none
    else none
  else none

/-- The assembler (R75 to R80): the instruction and the `CurrentCond` its condition asks for. `.N` cannot be met (R76). -/
def assemble (a : Asm) : Option (Instr × BitVec 4) :=
  match asmCond a.set a.cond, asmList a.list, asmRm a.tail with
  | some c, some (d, i, sp), some m =>
    if a.qualifier = .narrow ∨ 16 ≤ a.base then none
    else (asmFields a.size d i sp (BitVec.ofNat 4 a.base) a.align m).map fun f => (instrOfFields a.set f, c)
  | _, _, _ => none

/-- The tail of a form (R65). -/
def tailOf (m : RegNum) : AsmTail :=
  if m == 15#4 then .offset else if m == 13#4 then .postImm else .postReg m.toNat

/-- The assembler text of an instruction (R75 to R80), under a condition for the T32 forms: `none` for the UNDEFINED
patterns and for a list past `D31`, which no text stands for. -/
def disassemble (i : Instr) (cond : Option (BitVec 4)) : Option Asm :=
  match consts? i with
  | some c =>
    if c.d4 ≤ 31 then
      some {
        set := i.instrSet
        cond := match i.instrSet with
          | .a32 => none
          | .t32 => cond
        qualifier := .omitted
        size := 8 * c.ebytes
        list := [(c.d, c.index), (c.listReg 1, c.index), (c.listReg 2, c.index), (c.d4, c.index)]
        base := c.n.toNat
        align := if c.alignment = 1 then none else some (8 * c.alignment)
        tail := tailOf c.m }
    else none
  | none => none

end Sys2Proof.Machine
end

