-- ==== Sys2Proof/Machine/Enable.lean ====
section
/-!
DEFINITION. Machine/Enable.lean: the control registers the enable verdict depends on (R33 to R35) and the spec's sketch of
how `CheckAdvSIMDEnabled()` computes it (60_exceptions.md R142). The instruction takes the verdict from the parameter
`AdvSIMDAccess` (R93, R142, D6); the sketch is what a launch state must agree with (R171 (c)). Log entry 6.
-/

namespace Sys2Proof.Machine

/-- `CPACR.ASEDIS`, bit 31 (R34). -/
def State.cpacrASEDIS (s : State) : Bool := s.cpacr.getLsbD 31

/-- `CPACR.cp10`, bits 21:20 (R34). -/
def State.cpacrCp10 (s : State) : BitVec 2 := s.cpacr.extractLsb' 20 2

/-- `CPACR.cp11`, bits 23:22 (R34). -/
def State.cpacrCp11 (s : State) : BitVec 2 := s.cpacr.extractLsb' 22 2

/-- `NSACR.NSASEDIS`, bit 15 (R34). -/
def State.nsacrNSASEDIS (s : State) : Bool := s.nsacr.getLsbD 15

/-- `NSACR.cp10`, bit 10 (R34). -/
def State.nsacrCp10 (s : State) : Bool := s.nsacr.getLsbD 10

/-- `NSACR.cp11`, bit 11 (R34). -/
def State.nsacrCp11 (s : State) : Bool := s.nsacr.getLsbD 11

/-- `HCPTR.TASE`, bit 15 (R34). -/
def State.hcptrTASE (s : State) : Bool := s.hcptr.getLsbD 15

/-- `HCPTR.TCP10`, bit 10 (R34). -/
def State.hcptrTCP10 (s : State) : Bool := s.hcptr.getLsbD 10

/-- `HCPTR.TCP11`, bit 11 (R34). -/
def State.hcptrTCP11 (s : State) : Bool := s.hcptr.getLsbD 11

/-- `FPEXC.EN`, bit 30 (R34). -/
def State.fpexcEN (s : State) : Bool := s.fpexc.getLsbD 30

/-- `NSACR` has its effect "in Non-secure state with EL3 using AArch32" (R142). -/
def State.nsacrApplies (s : State) : Bool := s.security == .nonSecure && s.el3AArch32

/-- `CPACR.ASEDIS == 1`, or `NSACR.NSASEDIS == 1` acting as it (R142). -/
def State.asimdDisabled (s : State) : Bool := s.cpacrASEDIS || (s.nsacrApplies && s.nsacrNSASEDIS)

/-- `CPACR.cp10`, or `00` where `NSACR.cp10 == 0` acts so (R142). -/
def State.effectiveCp10 (s : State) : BitVec 2 := if s.nsacrApplies && !s.nsacrCp10 then 0#2 else s.cpacrCp10

/-- Trapped by `HCPTR.TASE` or `HCPTR.TCP10`, "or `NSACR` forces them", where EL2 is enabled (R142). -/
def State.hypTrapped (s : State) : Bool :=
  s.el2Enabled &&
    (s.hcptrTASE || s.hcptrTCP10 || (s.nsacrApplies && (s.nsacrNSASEDIS || !s.nsacrCp10)))

/-- Which Exception level a PE mode runs at (R152): EL0 is User mode; EL2 is Hyp mode; Monitor mode, and the Secure
privileged modes where EL3 uses AArch32, are EL3; the others are EL1. -/
def State.elOfMode (s : State) : EL :=
  match s.mode with
  | .user => .el0
  | .hyp => .el2
  | .monitor => .el3
  | .fiq | .irq | .supervisor | .abort | .undef | .system =>
    if s.security == .secure && s.el3AArch32 then .el3 else .el1

/-- The last part of the sketch of R142: the trap check, after the UNDEFINED checks. Below EL2 it is a Hyp trap, in Hyp mode an
Undefined Instruction exception. The sketch says nothing of a trapped access above EL2: a free value (log entry 6). -/
def State.trapVerdict (s : State) : AdvSIMDAccess :=
  if !s.hypTrapped then .enabled
  else if s.mode == .hyp then .undefined
  else if s.elOfMode == .el3 then Config.trapAboveEL2Verdict
  else .hypTrap

/-- The sketch of R142: the verdict from the registers, the Security state and the mode. `cp10 == 10` is reserved (R34) and
the sketch states no verdict for it: a free value (log entry 6). -/
def State.enableVerdict (s : State) : AdvSIMDAccess :=
  if s.mode == .hyp then s.trapVerdict
  else if s.asimdDisabled || s.effectiveCp10 == 0#2 || (s.effectiveCp10 == 1#2 && s.el == .el0) || !s.fpexcEN then .undefined
  else if s.effectiveCp10 == 2#2 then Config.reservedCp10Verdict
  else s.trapVerdict

end Sys2Proof.Machine
end

