-- ==== Sys2Proof/Safety.lean ====
section
/-!
DEFINITION. Safety.lean: the terms claims are stated in: the launch preconditions (R171), the invariant of a run, how a run
ends (R174), and the conditions and the effect of a completed store (R91 to R97, R123) written out from the rules.
-/

namespace Sys2Proof.Machine

/-! ### Launch -/

/-- The enable verdict and the Exception level reflect the registers and the mode (R142, R152, R171 (c)). -/
def State.SettingsAgree (s : State) : Prop := s.advSIMDAccess = s.enableVerdict ∧ s.el = s.elOfMode

/-- No byte is both program text and listed data (R56). -/
def State.Disjoint (s : State) : Prop := ∀ a : Nat, (s.text.read a).isSome → s.mem.read a = none

/-- What a step keeps: both memories canonical and, as far as data are listed, apart, the `pc` aligned for the instruction set (R25,
R46, R56). It is the model's invariant, no launch precondition: a launch memory that lists data under the text is allowed (R38). -/
structure State.Inv (s : State) : Prop where
  mem_wf : s.mem.wf = true
  text_wf : s.text.wf = true
  disjoint : s.Disjoint
  pc_aligned : s.pcAligned = true

/-- The launch preconditions of R171 for the instruction that is about to execute. (d) holds of every state, since every register
has a value; (e) and (f) say that parameters are what they stand for, and so are the parameters themselves. -/
structure State.LaunchOk (s : State) (i : Instr) : Prop where
  /-- (a): the PE is in the instruction set of the encoding. -/
  set : i.instrSet = s.instrSet
  /-- (b): the `pc` is aligned (R25). -/
  aligned : s.pcAligned = true
  /-- (b): the `pc` addresses the instruction. -/
  atPc : s.fetchInstr = .ok i
  /-- (c): the verdict reflects the enable settings. -/
  settings : s.SettingsAgree
  /-- (g): the bytes this instruction stores do not overlap the program text (R56). -/
  apart : ∀ c, consts? i = some c → c.n ≠ 15#4 → ∀ j < 4 * c.ebytes, s.text.read (s.readR c.n + BitVec.ofNat 32 j).toNat = none

/-! ### The end of a run (R174) -/

/-- Every byte of the program text belongs to an instruction that has executed, at one of the addresses given. -/
def State.textExecuted (s : State) (done : List Word) : Bool :=
  s.text.all fun cell => done.any fun a => decide ((BitVec.ofNat 32 cell.1 - a).toNat < 4)

/-- `Completed` (R174): some instruction has executed, every instruction of the program text has, and the `pc` is just past the last
one that did. `done` holds their addresses, the last first. -/
def State.completedAfter (s : State) : List Word → Bool
  | [] => false
  | last :: before => s.pc == last + 4#32 && s.textExecuted (last :: before)

/-- How a run ends (R174): `Completed` is the only final state. `unfinished` is the model's: the step count ran out. -/
inductive RunEnd where
  | completed (s : State)
  | faulted (f : Fault)
  | refused (r : Refusal)
  | unfinished (s : State)
deriving DecidableEq, Repr

/-- The end of a run of at most `k` further steps, after instructions at the addresses `done` have executed. -/
def runFrom (done : List Word) : Nat → State → RunEnd
  | 0, s => if s.completedAfter done then .completed s else .unfinished s
  | k + 1, s =>
    if s.completedAfter done then .completed s
    else
      match step s with
      | .next s' => runFrom (s.pc :: done) k s'
      | .fault f => .faulted f
      | .refused r => .refused r

/-- The end of a run of at most `k` steps from a launch state, whose `pc` is the address of the first instruction (R38). -/
def runEnd (k : Nat) (s : State) : RunEnd := runFrom [] k s

/-! ### Outcomes -/

/-- Change the state a fault leaves. -/
def Fault.mapLeft (g : State → State) : Fault → Fault
  | .undefined s => .undefined (g s)
  | .hypTrap s => .hypTrap (g s)
  | .alignmentFault r s => .alignmentFault r (g s)
  | .dataAbort a s => .dataAbort a (g s)

/-- The same outcome (the same fault, the same refusal) with the state it leaves changed. -/
def mapResult (g : State → State) : Result → Result
  | .next s => .next (g s)
  | .fault f => .fault (f.mapLeft g)
  | .refused r => .refused r

/-- An answer leaves a state: the next one, or the one a fault leaves. -/
def leaves (r : Result) (t : State) : Prop := r = .next t ∨ ∃ f, r = .fault f ∧ f.left = t

/-! ### A completed store -/

/-- Is an address one of the `len` bytes from `address`, modulo 2^32 (R41). -/
def inBlock (address : Word) (len : Nat) (x : Word) : Prop := (x - address).toNat < len

/-- The operand and state conditions under which the instruction completes its store: not UNPREDICTABLE (R72), enabled (R93),
aligned (R94, R45), apart from the program text (R56), and every element admitted (R48). -/
structure StoreReady (c : DecodeConsts) (s : State) : Prop where
  base : c.n ≠ 15#4
  list : c.d + 3 * c.inc ≤ 31
  enabled : s.advSIMDAccess = .enabled
  aligned : (s.readR c.n).toNat % c.alignment = 0
  elementAligned : s.strictAlign = true → (s.readR c.n).toNat % c.ebytes = 0
  apart : ∀ j < 4 * c.ebytes, s.text.read (s.readR c.n + BitVec.ofNat 32 j).toNat = none
  admitted : ∀ k < 4, memAdmit s.admitRules (s.readR c.n + BitVec.ofNat 32 (k * c.ebytes)) c.ebytes (decide (s.el ≠ .el0)) true = .ok

/-- The effect of a completed store (R95, R96, R97, R98, R123): byte `j` of element `k`, the writeback, the `pc`, and the
frame. `D` registers, flags, control registers and every parameter are among the fields of the last clause. -/
structure StoreEffect (c : DecodeConsts) (s t : State) : Prop where
  stored : ∀ k < 4, ∀ j < c.ebytes,
    t.mem.read (s.readR c.n + BitVec.ofNat 32 (k * c.ebytes + j)).toNat =
      some ((s.readD (c.d + k * c.inc)).extractLsb' ((c.index * c.ebytes + (if s.bigEndianData then c.ebytes - 1 - j else j)) * 8) 8)
  memFrame : ∀ x : Word, ¬ inBlock (s.readR c.n) (4 * c.ebytes) x → t.mem.read x.toNat = s.mem.read x.toNat
  base : t.readR c.n =
    if c.m = 15#4 then s.readR c.n
    else if c.m = 13#4 then s.readR c.n + BitVec.ofNat 32 (4 * c.ebytes)
    else s.readR c.n + s.readR c.m
  regFrame : ∀ i : RegNum, i ≠ c.n → i ≠ 15#4 → t.readR i = s.readR i
  pc : t.pc = s.pc + 4#32
  frame : t = { s with gpr := t.gpr, pc := t.pc, mem := t.mem }

/-- The condition under which an instruction executes: `1110` in A32, the supplied one in T32 (R13). -/
def condOf (i : Instr) (s : State) : BitVec 4 :=
  match i.instrSet with
  | .a32 => 14#4
  | .t32 => s.currentCond

end Sys2Proof.Machine
end

