-- ==== Sys2Proof/Certificates/Slice0/Obligations.lean ====
section
/-!
DEFINITION. Certificates/Slice0/Obligations.lean: the statements for the provers. `StoreReady`, `StoreEffect`, `inBlock`,
`State.Inv`, `State.LaunchOk`, `State.SettingsAgree`, `runEnd`, `mapResult` and `leaves` are spelled out in Safety.lean; `condOf i s` is `1110` in A32 and the supplied condition
in T32; `consts? i` are the decode constants of R15, which `FieldsGiveDecodeConstants` fixes from the encoded fields.
-/

open Sys2Proof Sys2Proof.Machine

/-! ### Encoding -/

/-- Every well-formed instruction is what the decoder reads from its word, from its bytes with anything behind them, and from
its value in the opcode table. Bit positions: the spec's decision D1 (log entry 1). -/
def Obligations.DecodeReadsEncodedInstr : Prop :=
  ∀ i : Instr, WellFormed i = true →
    decodeWord i.instrSet (encode i) = .ok i ∧
    (∀ rest : List Byte, decode i.instrSet (encodeBytes i ++ rest) = .ok (i, rest)) ∧
    decodeTableWord 32 (encode i).toNat = some i

/-- Whatever word decodes, its instruction belongs to the instruction set, is well formed, and encodes to that very word: no
bit of a word is dropped and no two words give one instruction. Bit positions: decision D1 (log entry 1). -/
def Obligations.EncodeRestoresDecodedWord : Prop :=
  ∀ (set : InstrSet) (w : Word) (i : Instr), decodeWord set w = .ok i →
    i.instrSet = set ∧ WellFormed i = true ∧ encode i = w

/-- The patterns of the UNDEFINED encodings, in both instruction sets (R71), end with the outcome `Undefined` whatever the state, and
the state left is the state before (R141). Where the bits lie is the spec's decision D1 (log entry 1). -/
def Obligations.UndefinedPatternsFault : Prop :=
  ∀ (set : InstrSet) (w : Word) (s : State),
    (w &&& 0xFFB00F00#32 = (match set with | .a32 => 0xF4800F00#32 | .t32 => 0xF9800F00#32) ∨
      w &&& 0xFFB00F30#32 = (match set with | .a32 => 0xF4800B30#32 | .t32 => 0xF9800B30#32)) →
    ∃ i, decodeWord set w = .ok i ∧ exec i s = .fault (.undefined s)

/-- R141: each of the four UNDEFINED rows of the opcode table stops with the outcome `Undefined` in every state, the state left being
the state before; and `size` and `index_align` alone select those rows: the tests look at no other field and no state. -/
def Obligations.UndefinedRowsAlwaysFault : Prop :=
  (∀ (d : BitVec 5) (n m : RegNum) (ia4 : BitVec 4) (ia2 : BitVec 2) (s : State),
    exec (.undefSizeA32 d n ia4 m) s = .fault (.undefined s) ∧
    exec (.undefAlignA32 d n ia2 m) s = .fault (.undefined s) ∧
    exec (.undefSizeT32 d n ia4 m) s = .fault (.undefined s) ∧
    exec (.undefAlignT32 d n ia2 m) s = .fault (.undefined s)) ∧
  (∀ (set : InstrSet) (f : Fields),
    (f.size = 3#2 ∨ (f.size = 2#2 ∧ f.indexAlign.extractLsb' 0 2 = 3#2) → ∀ s, exec (instrOfFields set f) s = .fault (.undefined s)) ∧
    (¬ (f.size = 3#2 ∨ (f.size = 2#2 ∧ f.indexAlign.extractLsb' 0 2 = 3#2)) → ∃ c, consts? (instrOfFields set f) = some c))

/-- A word of the opcode space that is not UNDEFINED decodes to an instruction whose decode constants are those its fields give (R65
to R68, R70). Where the fields lie is the spec's decision D1 (log entry 1). -/
def Obligations.FieldsGiveDecodeConstants : Prop :=
  ∀ (set : InstrSet) (w : Word), w &&& 0xFFB00300#32 = (match set with | .a32 => 0xF4800300#32 | .t32 => 0xF9800300#32) →
    (w.extractLsb' 10 2 = 0#2 → ∃ i, decodeWord set w = .ok i ∧ consts? i = some {
      ebytes := 1, index := (w.extractLsb' 5 3).toNat, inc := 1, alignment := if w.getLsbD 4 then 4 else 1,
      d := 16 * (w.extractLsb' 22 1).toNat + (w.extractLsb' 12 4).toNat,
      n := w.extractLsb' 16 4, m := w.extractLsb' 0 4 }) ∧
    (w.extractLsb' 10 2 = 1#2 → ∃ i, decodeWord set w = .ok i ∧ consts? i = some {
      ebytes := 2, index := (w.extractLsb' 6 2).toNat, inc := if w.getLsbD 5 then 2 else 1,
      alignment := if w.getLsbD 4 then 8 else 1,
      d := 16 * (w.extractLsb' 22 1).toNat + (w.extractLsb' 12 4).toNat,
      n := w.extractLsb' 16 4, m := w.extractLsb' 0 4 }) ∧
    (w.extractLsb' 10 2 = 2#2 → w.extractLsb' 4 2 ≠ 3#2 → ∃ i, decodeWord set w = .ok i ∧ consts? i = some {
      ebytes := 4, index := (w.extractLsb' 7 1).toNat, inc := if w.getLsbD 6 then 2 else 1,
      alignment := if w.extractLsb' 4 2 = 0#2 then 1 else 4 <<< (w.extractLsb' 4 2).toNat,
      d := 16 * (w.extractLsb' 22 1).toNat + (w.extractLsb' 12 4).toNat,
      n := w.extractLsb' 16 4, m := w.extractLsb' 0 4 }) ∧
    (∀ c : DecodeConsts, (c.wback = true ↔ c.m ≠ 15#4) ∧ (c.registerIndex = true ↔ c.m ≠ 15#4 ∧ c.m ≠ 13#4) ∧
      c.listReg 0 = c.d ∧ (∀ k, c.listReg (k + 1) = c.listReg k + c.inc) ∧ c.d4 = c.listReg 3)

/-- R66, R67, R68: how `index_align` splits for each `size`, in both instruction sets, over the named fields (no bit position of a word
is used). For `size == '10'` the split `11` is UNDEFINED. -/
def Obligations.IndexAlignSplitsBySize : Prop :=
  ∀ (set : InstrSet) (f : Fields),
    (f.size = 0#2 → ∃ c, consts? (instrOfFields set f) = some c ∧ c.ebytes = 1 ∧ c.index = (f.indexAlign.extractLsb' 1 3).toNat ∧
      c.inc = 1 ∧ c.alignment = (if f.indexAlign.getLsbD 0 = false then 1 else 4)) ∧
    (f.size = 1#2 → ∃ c, consts? (instrOfFields set f) = some c ∧ c.ebytes = 2 ∧ c.index = (f.indexAlign.extractLsb' 2 2).toNat ∧
      c.inc = (if f.indexAlign.getLsbD 1 = false then 1 else 2) ∧ c.alignment = (if f.indexAlign.getLsbD 0 = false then 1 else 8)) ∧
    (f.size = 2#2 → f.indexAlign.extractLsb' 0 2 = 3#2 → ∀ s, exec (instrOfFields set f) s = .fault (.undefined s)) ∧
    (f.size = 2#2 → f.indexAlign.extractLsb' 0 2 ≠ 3#2 → ∃ c, consts? (instrOfFields set f) = some c ∧ c.ebytes = 4 ∧
      c.index = (f.indexAlign.extractLsb' 3 1).toNat ∧ c.inc = (if f.indexAlign.getLsbD 2 = false then 1 else 2) ∧
      (f.indexAlign.extractLsb' 0 2 = 0#2 → c.alignment = 1) ∧ (f.indexAlign.extractLsb' 0 2 = 1#2 → c.alignment = 8) ∧
      (f.indexAlign.extractLsb' 0 2 = 2#2 → c.alignment = 16))

/-- Words of the spec's test vectors E3, E6, E9, E11, E13, E20 and E22 (95_test_vectors.md 3.1) decode to what they stand for, and
E27 and E28 are not this instruction. The vectors rest on decision D1 (log entry 1). -/
def Obligations.SampleWordsDecode : Prop :=
  decodeWord .a32 0xF4C1C362#32 = .ok (.a1PostReg 28#5 1#4 3#3 false 2#4) ∧
  decodeWord .a32 0xF4810772#32 = .ok (.a2PostReg 0#5 1#4 1#2 .double true 2#4) ∧
  decodeWord .a32 0xF4C30BC4#32 = .ok (.a3PostReg 16#5 3#4 1#1 .double .standard 4#4) ∧
  decodeWord .t32 0xF98043FD#32 = .ok (.t1PostImm 4#5 0#4 7#3 true) ∧
  decodeWord .t32 0xF98587CF#32 = .ok (.t2Offset 8#5 5#4 3#2 .single false) ∧
  decodeWord .a32 0xF4810B3F#32 = .ok (.undefAlignA32 0#5 1#4 0#2 15#4) ∧
  decodeWord .t32 0xF9810B7F#32 = .ok (.undefAlignT32 0#5 1#4 1#2 15#4) ∧
  decodeWord .a32 0xF4A0030F#32 = .error (.notVst4SingleLane 0xF4A0030F#32) ∧
  decodeWord .a32 0xF480020F#32 = .error (.notVst4SingleLane 0xF480020F#32)

/-- Instruction bytes are little-endian, `hw1` first in T32, whatever the data byte order (R43, the spec's decision D3; log entry 17). -/
def Obligations.FetchIsLittleEndian : Prop :=
  (∀ (b0 b1 b2 b3 : Byte) (i : Instr), decodeWord .a32 (b3 ++ b2 ++ b1 ++ b0) = .ok i →
    ∀ rest, decode .a32 (b0 :: b1 :: b2 :: b3 :: rest) = .ok (i, rest)) ∧
  (∀ (b0 b1 b2 b3 : Byte) (i : Instr), decodeWord .t32 (b1 ++ b0 ++ (b3 ++ b2)) = .ok i →
    ∀ rest, decode .t32 (b0 :: b1 :: b2 :: b3 :: rest) = .ok (i, rest)) ∧
  (∀ (s : State) (b : Bool), ({ s with bigEndianData := b } : State).fetchInstr = s.fetchInstr)

/-- The assembler text of a well-formed instruction (R75 to R80, as structured data: log entry 15) assembles to it, with the condition
asked for; every store whose list ends at or before `D31` has such a text. -/
def Obligations.AssemblerTextRoundTrips : Prop :=
  ∀ (i : Instr) (c : DecodeConsts) (cond : BitVec 4), WellFormed i = true → consts? i = some c → c.d + 3 * c.inc ≤ 31 →
    ∃ a, disassemble i (some cond) = some a ∧
      assemble a = some (i, match i.instrSet with | .a32 => 14#4 | .t32 => cond)

/-! ### One step -/

/-- When the bytes at an aligned `pc` decode to an instruction, the step is the execution of that instruction; nothing is added
around it. -/
def Obligations.StepRunsDecodedInstr : Prop :=
  ∀ (s : State) (i : Instr) (rest : List Byte), s.pcAligned = true → decode s.instrSet s.fetchBytes = .ok (i, rest) →
    step s = exec i s

/-- When the four bytes at an aligned `pc` are those of a well-formed instruction of the current instruction set, the step is the
execution of that instruction. -/
def Obligations.StepRunsEncodedBytes : Prop :=
  ∀ (s : State) (i : Instr), WellFormed i = true → i.instrSet = s.instrSet → s.pcAligned = true →
    (∀ j < 4, s.text.read (s.pc + BitVec.ofNat 32 j).toNat = (encodeBytes i)[j]?) → step s = exec i s

/-- A `pc` that is no multiple of 4 in A32, or of 2 in T32, is refused (R25, R46: the spec's decision D4; log entry 17). -/
def Obligations.MisalignedPcRefused : Prop :=
  ∀ s : State, s.pc.toNat % (match s.instrSet with | .a32 => 4 | .t32 => 2) ≠ 0 → step s = .refused (.misalignedPc s.pc)

/-- What is not an instruction of this hardware is refused by name. A 32-bit word outside the opcode space (R17, the spec's decision
D18), a 16-bit T32 instruction (R74); and, the MODEL's choice in log entry 28, for which the spec names no refusal: text that ends inside
an instruction (`truncatedText`), and no text at the `pc` (`endOfText`). -/
def Obligations.ForeignWordsRefused : Prop :=
  ∀ s : State, s.pcAligned = true →
    (∀ w : Word, s.instrSet = .a32 → w &&& 0xFFB00300#32 ≠ 0xF4800300#32 →
      s.fetchBytes = [w.extractLsb' 0 8, w.extractLsb' 8 8, w.extractLsb' 16 8, w.extractLsb' 24 8] →
      step s = .refused (.notVst4SingleLane w)) ∧
    (∀ w : Word, s.instrSet = .t32 → w &&& 0xFFB00300#32 ≠ 0xF9800300#32 → 29 ≤ (w.extractLsb' 27 5).toNat →
      s.fetchBytes = [w.extractLsb' 16 8, w.extractLsb' 24 8, w.extractLsb' 0 8, w.extractLsb' 8 8] →
      step s = .refused (.notVst4SingleLane w)) ∧
    (∀ (b0 b1 : Byte) (rest : List Byte), s.instrSet = .t32 → (b1.extractLsb' 3 5).toNat < 29 → s.fetchBytes = b0 :: b1 :: rest →
      step s = .refused (.narrowT32 (b1 ++ b0))) ∧
    (s.instrSet = .a32 → 1 ≤ s.fetchBytes.length → s.fetchBytes.length < 4 → step s = .refused (.truncatedText s.pc)) ∧
    (s.instrSet = .t32 → s.fetchBytes.length = 1 → step s = .refused (.truncatedText s.pc)) ∧
    (∀ (b0 b1 : Byte) (rest : List Byte), s.instrSet = .t32 → 29 ≤ (b1.extractLsb' 3 5).toNat → s.fetchBytes = b0 :: b1 :: rest →
      rest.length < 2 → step s = .refused (.truncatedText s.pc)) ∧
    (s.text.read s.pc.toNat = none → step s = .refused (.endOfText s.pc))

/-! ### The store completes -/

/-- Every store instruction whose condition holds completes when it is ready: each byte of each element at its place in the byte order
of the state (R95), the writeback (R96), the `pc` advance (R97: the spec's decision D4; log entry 17), and nothing else (R123, which the
spec derives). -/
def Obligations.ReadyStoreCompletes : Prop :=
  ∀ (i : Instr) (c : DecodeConsts) (s : State), consts? i = some c → StoreReady c s →
    conditionHolds (condOf i s) s.flagN s.flagZ s.flagC s.flagV = true →
    ∃ t, exec i s = .next t ∧ StoreEffect c s t

/-- R95: whenever a store instruction whose condition holds answers a next state, byte `j` of element `k` is in memory at its place in
the byte order of the state, and no byte outside the `4*ebytes` bytes at `R[n]` has changed. -/
def Obligations.CompletedStoreWroteElements : Prop :=
  ∀ (i : Instr) (c : DecodeConsts) (s t : State), consts? i = some c → c.d + 3 * c.inc ≤ 31 →
    conditionHolds (condOf i s) s.flagN s.flagZ s.flagC s.flagV = true → exec i s = .next t →
    (s.bigEndianData = false → ∀ k < 4, ∀ j < c.ebytes,
      t.mem.read (s.readR c.n + BitVec.ofNat 32 (k * c.ebytes + j)).toNat =
        some ((s.readD (c.d + k * c.inc)).extractLsb' ((c.index * c.ebytes + j) * 8) 8)) ∧
    (s.bigEndianData = true → ∀ k < 4, ∀ j < c.ebytes,
      t.mem.read (s.readR c.n + BitVec.ofNat 32 (k * c.ebytes + j)).toNat =
        some ((s.readD (c.d + k * c.inc)).extractLsb' ((c.index * c.ebytes + (c.ebytes - 1 - j)) * 8) 8)) ∧
    (∀ x : Word, ¬ inBlock (s.readR c.n) (4 * c.ebytes) x → t.mem.read x.toNat = s.mem.read x.toNat)

/-- A1 in its three variants (R100 to R102): `VST4.8` completes with its effect, the decode constants written out. -/
def Obligations.A1StoresFourBytes : Prop :=
  ∀ (d : BitVec 5) (n m : RegNum) (i : BitVec 3) (al : Bool) (s : State),
    (StoreReady ⟨1, i.toNat, 1, if al then 4 else 1, d.toNat, n, 15#4⟩ s →
      ∃ t, exec (.a1Offset d n i al) s = .next t ∧ StoreEffect ⟨1, i.toNat, 1, if al then 4 else 1, d.toNat, n, 15#4⟩ s t) ∧
    (StoreReady ⟨1, i.toNat, 1, if al then 4 else 1, d.toNat, n, 13#4⟩ s →
      ∃ t, exec (.a1PostImm d n i al) s = .next t ∧ StoreEffect ⟨1, i.toNat, 1, if al then 4 else 1, d.toNat, n, 13#4⟩ s t) ∧
    (m ≠ 13#4 → m ≠ 15#4 → StoreReady ⟨1, i.toNat, 1, if al then 4 else 1, d.toNat, n, m⟩ s →
      ∃ t, exec (.a1PostReg d n i al m) s = .next t ∧ StoreEffect ⟨1, i.toNat, 1, if al then 4 else 1, d.toNat, n, m⟩ s t)

/-- A2 (R103 to R105): `VST4.16`. -/
def Obligations.A2StoresFourHalfwords : Prop :=
  ∀ (d : BitVec 5) (n m : RegNum) (i : BitVec 2) (sp : Spacing) (inc : Nat) (al : Bool) (s : State),
    (sp = .single ∧ inc = 1 ∨ sp = .double ∧ inc = 2) →
    (StoreReady ⟨2, i.toNat, inc, if al then 8 else 1, d.toNat, n, 15#4⟩ s →
      ∃ t, exec (.a2Offset d n i sp al) s = .next t ∧ StoreEffect ⟨2, i.toNat, inc, if al then 8 else 1, d.toNat, n, 15#4⟩ s t) ∧
    (StoreReady ⟨2, i.toNat, inc, if al then 8 else 1, d.toNat, n, 13#4⟩ s →
      ∃ t, exec (.a2PostImm d n i sp al) s = .next t ∧ StoreEffect ⟨2, i.toNat, inc, if al then 8 else 1, d.toNat, n, 13#4⟩ s t) ∧
    (m ≠ 13#4 → m ≠ 15#4 → StoreReady ⟨2, i.toNat, inc, if al then 8 else 1, d.toNat, n, m⟩ s →
      ∃ t, exec (.a2PostReg d n i sp al m) s = .next t ∧ StoreEffect ⟨2, i.toNat, inc, if al then 8 else 1, d.toNat, n, m⟩ s t)

/-- A3 (R106 to R108): `VST4.32`. -/
def Obligations.A3StoresFourWords : Prop :=
  ∀ (d : BitVec 5) (n m : RegNum) (i : BitVec 1) (sp : Spacing) (inc : Nat) (al : Align32) (align : Nat) (s : State),
    (sp = .single ∧ inc = 1 ∨ sp = .double ∧ inc = 2) →
    (al = .standard ∧ align = 1 ∨ al = .bits64 ∧ align = 8 ∨ al = .bits128 ∧ align = 16) →
    (StoreReady ⟨4, i.toNat, inc, align, d.toNat, n, 15#4⟩ s →
      ∃ t, exec (.a3Offset d n i sp al) s = .next t ∧ StoreEffect ⟨4, i.toNat, inc, align, d.toNat, n, 15#4⟩ s t) ∧
    (StoreReady ⟨4, i.toNat, inc, align, d.toNat, n, 13#4⟩ s →
      ∃ t, exec (.a3PostImm d n i sp al) s = .next t ∧ StoreEffect ⟨4, i.toNat, inc, align, d.toNat, n, 13#4⟩ s t) ∧
    (m ≠ 13#4 → m ≠ 15#4 → StoreReady ⟨4, i.toNat, inc, align, d.toNat, n, m⟩ s →
      ∃ t, exec (.a3PostReg d n i sp al m) s = .next t ∧ StoreEffect ⟨4, i.toNat, inc, align, d.toNat, n, m⟩ s t)

/-- T1 (R109 to R111): `VST4.8` under the supplied condition. -/
def Obligations.T1StoresFourBytes : Prop :=
  ∀ (d : BitVec 5) (n m : RegNum) (i : BitVec 3) (al : Bool) (s : State),
    conditionHolds s.currentCond s.flagN s.flagZ s.flagC s.flagV = true →
    (StoreReady ⟨1, i.toNat, 1, if al then 4 else 1, d.toNat, n, 15#4⟩ s →
      ∃ t, exec (.t1Offset d n i al) s = .next t ∧ StoreEffect ⟨1, i.toNat, 1, if al then 4 else 1, d.toNat, n, 15#4⟩ s t) ∧
    (StoreReady ⟨1, i.toNat, 1, if al then 4 else 1, d.toNat, n, 13#4⟩ s →
      ∃ t, exec (.t1PostImm d n i al) s = .next t ∧ StoreEffect ⟨1, i.toNat, 1, if al then 4 else 1, d.toNat, n, 13#4⟩ s t) ∧
    (m ≠ 13#4 → m ≠ 15#4 → StoreReady ⟨1, i.toNat, 1, if al then 4 else 1, d.toNat, n, m⟩ s →
      ∃ t, exec (.t1PostReg d n i al m) s = .next t ∧ StoreEffect ⟨1, i.toNat, 1, if al then 4 else 1, d.toNat, n, m⟩ s t)

/-- T2 (R112 to R114): `VST4.16` under the supplied condition. -/
def Obligations.T2StoresFourHalfwords : Prop :=
  ∀ (d : BitVec 5) (n m : RegNum) (i : BitVec 2) (sp : Spacing) (inc : Nat) (al : Bool) (s : State),
    conditionHolds s.currentCond s.flagN s.flagZ s.flagC s.flagV = true →
    (sp = .single ∧ inc = 1 ∨ sp = .double ∧ inc = 2) →
    (StoreReady ⟨2, i.toNat, inc, if al then 8 else 1, d.toNat, n, 15#4⟩ s →
      ∃ t, exec (.t2Offset d n i sp al) s = .next t ∧ StoreEffect ⟨2, i.toNat, inc, if al then 8 else 1, d.toNat, n, 15#4⟩ s t) ∧
    (StoreReady ⟨2, i.toNat, inc, if al then 8 else 1, d.toNat, n, 13#4⟩ s →
      ∃ t, exec (.t2PostImm d n i sp al) s = .next t ∧ StoreEffect ⟨2, i.toNat, inc, if al then 8 else 1, d.toNat, n, 13#4⟩ s t) ∧
    (m ≠ 13#4 → m ≠ 15#4 → StoreReady ⟨2, i.toNat, inc, if al then 8 else 1, d.toNat, n, m⟩ s →
      ∃ t, exec (.t2PostReg d n i sp al m) s = .next t ∧ StoreEffect ⟨2, i.toNat, inc, if al then 8 else 1, d.toNat, n, m⟩ s t)

/-- T3 (R115 to R117): `VST4.32` under the supplied condition. -/
def Obligations.T3StoresFourWords : Prop :=
  ∀ (d : BitVec 5) (n m : RegNum) (i : BitVec 1) (sp : Spacing) (inc : Nat) (al : Align32) (align : Nat) (s : State),
    conditionHolds s.currentCond s.flagN s.flagZ s.flagC s.flagV = true →
    (sp = .single ∧ inc = 1 ∨ sp = .double ∧ inc = 2) →
    (al = .standard ∧ align = 1 ∨ al = .bits64 ∧ align = 8 ∨ al = .bits128 ∧ align = 16) →
    (StoreReady ⟨4, i.toNat, inc, align, d.toNat, n, 15#4⟩ s →
      ∃ t, exec (.t3Offset d n i sp al) s = .next t ∧ StoreEffect ⟨4, i.toNat, inc, align, d.toNat, n, 15#4⟩ s t) ∧
    (StoreReady ⟨4, i.toNat, inc, align, d.toNat, n, 13#4⟩ s →
      ∃ t, exec (.t3PostImm d n i sp al) s = .next t ∧ StoreEffect ⟨4, i.toNat, inc, align, d.toNat, n, 13#4⟩ s t) ∧
    (m ≠ 13#4 → m ≠ 15#4 → StoreReady ⟨4, i.toNat, inc, align, d.toNat, n, m⟩ s →
      ∃ t, exec (.t3PostReg d n i sp al m) s = .next t ∧ StoreEffect ⟨4, i.toNat, inc, align, d.toNat, n, m⟩ s t)

/-- R109 to R117: where its condition holds, a T32 form answers exactly what its A32 counterpart answers. -/
def Obligations.T32FormsActAsA32Forms : Prop :=
  ∀ (d : BitVec 5) (n m : RegNum) (i8 : BitVec 3) (i16 : BitVec 2) (i32 : BitVec 1) (sp : Spacing) (al : Bool) (al32 : Align32)
    (s : State), conditionHolds s.currentCond s.flagN s.flagZ s.flagC s.flagV = true →
    exec (.t1Offset d n i8 al) s = exec (.a1Offset d n i8 al) s ∧
    exec (.t1PostImm d n i8 al) s = exec (.a1PostImm d n i8 al) s ∧
    exec (.t1PostReg d n i8 al m) s = exec (.a1PostReg d n i8 al m) s ∧
    exec (.t2Offset d n i16 sp al) s = exec (.a2Offset d n i16 sp al) s ∧
    exec (.t2PostImm d n i16 sp al) s = exec (.a2PostImm d n i16 sp al) s ∧
    exec (.t2PostReg d n i16 sp al m) s = exec (.a2PostReg d n i16 sp al m) s ∧
    exec (.t3Offset d n i32 sp al32) s = exec (.a3Offset d n i32 sp al32) s ∧
    exec (.t3PostImm d n i32 sp al32) s = exec (.a3PostImm d n i32 sp al32) s ∧
    exec (.t3PostReg d n i32 sp al32 m) s = exec (.a3PostReg d n i32 sp al32 m) s

/-- Base and index the same register: the base is doubled (R118: the spec's decision D24; log entry 21). -/
def Obligations.SameBaseAndIndexDoubles : Prop :=
  ∀ (i : Instr) (c : DecodeConsts) (s : State), consts? i = some c → c.m = c.n → c.n ≠ 13#4 → StoreReady c s →
    conditionHolds (condOf i s) s.flagN s.flagZ s.flagC s.flagV = true →
    ∃ t, exec i s = .next t ∧ (t.readR c.n).toNat = 2 * (s.readR c.n).toNat % 2 ^ 32

/-- At the top of the address space the byte addresses wrap to 0, and so does the immediate writeback (R120: the spec's decision D11;
log entry 18). -/
def Obligations.StoreWrapsAtTop : Prop :=
  ∀ (i : Instr) (c : DecodeConsts) (s : State), consts? i = some c → StoreReady c s →
    conditionHolds (condOf i s) s.flagN s.flagZ s.flagC s.flagV = true →
    2 ^ 32 < (s.readR c.n).toNat + 4 * c.ebytes →
    ∃ t, exec i s = .next t ∧
      (∀ k < 4, ∀ j < c.ebytes, 2 ^ 32 ≤ (s.readR c.n).toNat + (k * c.ebytes + j) →
        t.mem.read ((s.readR c.n).toNat + (k * c.ebytes + j) - 2 ^ 32) =
          some ((s.readD (c.d + k * c.inc)).extractLsb'
            ((c.index * c.ebytes + (if s.bigEndianData then c.ebytes - 1 - j else j)) * 8) 8)) ∧
      (c.m = 13#4 → (t.readR c.n).toNat = (s.readR c.n).toNat + 4 * c.ebytes - 2 ^ 32)

/-- R96: writeback. A completed instruction whose condition holds has added `R[m]`, or `4*ebytes`, to `R[n]`, or, without writeback, has
written no register; it had every element admitted; and an instruction that faults has written no register. -/
def Obligations.WritebackAddsIncrement : Prop :=
  ∀ (i : Instr) (c : DecodeConsts) (s : State), consts? i = some c → c.n ≠ 15#4 → c.d + 3 * c.inc ≤ 31 →
    conditionHolds (condOf i s) s.flagN s.flagZ s.flagC s.flagV = true →
    (∀ t, exec i s = .next t →
      (c.m ≠ 15#4 → c.m ≠ 13#4 → (t.readR c.n).toNat = ((s.readR c.n).toNat + (s.readR c.m).toNat) % 2 ^ 32) ∧
      (c.m = 13#4 → (t.readR c.n).toNat = ((s.readR c.n).toNat + 4 * c.ebytes) % 2 ^ 32) ∧
      (c.m = 15#4 → t.gpr = s.gpr) ∧
      (∀ k < 4, memAdmit s.admitRules (s.readR c.n + BitVec.ofNat 32 (k * c.ebytes)) c.ebytes (decide (s.el ≠ .el0)) true = .ok)) ∧
    (∀ f, exec i s = .fault f → f.left.gpr = s.gpr)

/-! ### Where the store stops -/

/-- A condition that does not hold occurs only in T32, and then only the `pc` advances (R92, which the spec derives from R90). -/
def Obligations.FailedConditionOnlyAdvances : Prop :=
  ∀ (i : Instr) (c : DecodeConsts) (s : State), consts? i = some c → c.n ≠ 15#4 → c.d + 3 * c.inc ≤ 31 →
    conditionHolds (condOf i s) s.flagN s.flagZ s.flagC s.flagV = false →
    i.instrSet = .t32 ∧ exec i s = .next { s with pc := s.pc + 4#32 }

/-- R93, R143: the enable verdict: `Undefined` and `HypTrap` end the instruction with nothing changed, whatever the base address is;
`Enabled` raises neither. -/
def Obligations.EnableVerdictDecides : Prop :=
  ∀ (i : Instr) (c : DecodeConsts) (s : State), consts? i = some c → c.n ≠ 15#4 → c.d + 3 * c.inc ≤ 31 →
    conditionHolds (condOf i s) s.flagN s.flagZ s.flagC s.flagV = true →
    (s.advSIMDAccess = .undefined → exec i s = .fault (.undefined s)) ∧
    (s.advSIMDAccess = .hypTrap → exec i s = .fault (.hypTrap s)) ∧
    (s.advSIMDAccess = .enabled → ∀ t, exec i s ≠ .fault (.undefined t) ∧ exec i s ≠ .fault (.hypTrap t))

/-- R94, R144: a base address that is no multiple of `alignment` is an Alignment fault whose record holds the store's descriptor and
the base address zero-extended to 64 bits; nothing is written. -/
def Obligations.MisalignedBaseFaults : Prop :=
  ∀ (i : Instr) (c : DecodeConsts) (s : State), consts? i = some c → c.n ≠ 15#4 → c.d + 3 * c.inc ≤ 31 →
    conditionHolds (condOf i s) s.flagN s.flagZ s.flagC s.flagV = true → s.advSIMDAccess = .enabled →
    (s.readR c.n).toNat % c.alignment ≠ 0 →
    exec i s = .fault (.alignmentFault
      { accdesc := { op := .store, nontemporal := false, tagchecked := false, privileged := decide (s.el ≠ .el0) },
        vaddress := BitVec.ofNat 64 (s.readR c.n).toNat } s)

/-- The spec's decision D8 (R45; log entry 16): an element address that is no multiple of the element size faults under `StrictAlign`; without it no alignment fault
comes from there; and an address that passes the instruction's own check for `alignment` above 1 has every element aligned. -/
def Obligations.StrictAlignChecksElements : Prop :=
  ∀ (i : Instr) (c : DecodeConsts) (s : State), consts? i = some c → c.n ≠ 15#4 → c.d + 3 * c.inc ≤ 31 →
    conditionHolds (condOf i s) s.flagN s.flagZ s.flagC s.flagV = true → s.advSIMDAccess = .enabled →
    (s.readR c.n).toNat % c.alignment = 0 →
    (s.strictAlign = true → (s.readR c.n).toNat % c.ebytes ≠ 0 →
      exec i s = .fault (.alignmentFault
        { accdesc := { op := .store, nontemporal := false, tagchecked := false, privileged := decide (s.el ≠ .el0) },
          vaddress := BitVec.ofNat 64 (s.readR c.n).toNat } s)) ∧
    (s.strictAlign = false → ∀ r t, exec i s ≠ .fault (.alignmentFault r t)) ∧
    (c.alignment ≠ 1 → ∀ k < 4, (s.readR c.n + BitVec.ofNat 32 (k * c.ebytes)).toNat % c.ebytes = 0)

/-- A store any byte of which is program text is refused (R56: the spec's decision D19; log entry 11), and the bytes of the four
elements never overlap one another (R125). -/
def Obligations.StoreOverTextRefused : Prop :=
  ∀ (i : Instr) (c : DecodeConsts) (s : State), consts? i = some c → c.n ≠ 15#4 → c.d + 3 * c.inc ≤ 31 →
    conditionHolds (condOf i s) s.flagN s.flagZ s.flagC s.flagV = true → s.advSIMDAccess = .enabled →
    (s.readR c.n).toNat % c.alignment = 0 → (s.strictAlign = true → (s.readR c.n).toNat % c.ebytes = 0) →
    ((∃ j < 4 * c.ebytes, (s.text.read (s.readR c.n + BitVec.ofNat 32 j).toNat).isSome = true) →
      exec i s = .refused (.storeOverlapsText (s.readR c.n))) ∧
    (∀ k < 4, ∀ k' < 4, ∀ j < c.ebytes, ∀ j' < c.ebytes,
      s.readR c.n + BitVec.ofNat 32 (k * c.ebytes + j) = s.readR c.n + BitVec.ofNat 32 (k' * c.ebytes + j') → k = k' ∧ j = j')

/-- The spec's decision D9 (R48, R145; log entries 5, 9): the first element that `MemAdmit` refuses is a Data Abort at its address; the block is UNKNOWN (one draw a byte),
and no register, not the `pc`, and no byte outside the block has changed. -/
def Obligations.RefusedElementAborts : Prop :=
  ∀ (i : Instr) (c : DecodeConsts) (s : State) (k : Nat), consts? i = some c → c.n ≠ 15#4 → c.d + 3 * c.inc ≤ 31 →
    conditionHolds (condOf i s) s.flagN s.flagZ s.flagC s.flagV = true → s.advSIMDAccess = .enabled →
    (s.readR c.n).toNat % c.alignment = 0 → (s.strictAlign = true → (s.readR c.n).toNat % c.ebytes = 0) →
    (∀ j < 4 * c.ebytes, s.text.read (s.readR c.n + BitVec.ofNat 32 j).toNat = none) → k < 4 →
    (∀ q < k, memAdmit s.admitRules (s.readR c.n + BitVec.ofNat 32 (q * c.ebytes)) c.ebytes (decide (s.el ≠ .el0)) true = .ok) →
    memAdmit s.admitRules (s.readR c.n + BitVec.ofNat 32 (k * c.ebytes)) c.ebytes (decide (s.el ≠ .el0)) true = .abort →
    ∃ t, exec i s = .fault (.dataAbort (s.readR c.n + BitVec.ofNat 32 (k * c.ebytes)) t) ∧
      (∀ j < 4 * c.ebytes, t.mem.read (s.readR c.n + BitVec.ofNat 32 j).toNat = some (Config.unknownByte (s.draws + j))) ∧
      (∀ x : Word, ¬ inBlock (s.readR c.n) (4 * c.ebytes) x → t.mem.read x.toNat = s.mem.read x.toNat) ∧
      t = { s with mem := t.mem, draws := t.draws }

/-- Base register 15 is refused, whatever else holds (R122: the spec's decision D12; log entry 12). -/
def Obligations.BaseR15Refused : Prop :=
  ∀ (i : Instr) (c : DecodeConsts) (s : State), consts? i = some c → c.n = 15#4 → exec i s = .refused .baseIsR15

/-- The spec's decision D13 (R121; log entries 9, 11): a list past `D31` behaves as `CUChoice` says. Under `Unknown` the bytes and the
writeback register take free values, whatever they are; a block over the program text is refused (R56). That this is so whatever the
condition, the enable verdict, the alignment and `MemAdmit` are is the spec's decision D14 and, for `Nop` and `Unknown`, the model's
reading of it, log entry 13. -/
def Obligations.ListPastD31FollowsChoice : Prop :=
  ∀ (i : Instr) (c : DecodeConsts) (s : State), consts? i = some c → c.n ≠ 15#4 → 31 < c.d + 3 * c.inc →
    (s.cuChoice = .refuse → exec i s = .refused .listPastD31) ∧
    (s.cuChoice = .undefined → exec i s = .fault (.undefined s)) ∧
    (s.cuChoice = .nop → exec i s = .next { s with pc := s.pc + 4#32 }) ∧
    (s.cuChoice = .unknown → (∀ j < 4 * c.ebytes, s.text.read (s.readR c.n + BitVec.ofNat 32 j).toNat = none) →
      ∃ t, exec i s = .next t ∧
        (∀ j < 4 * c.ebytes, t.mem.read (s.readR c.n + BitVec.ofNat 32 j).toNat = some (Config.unknownByte (s.draws + j))) ∧
        (∀ x : Word, ¬ inBlock (s.readR c.n) (4 * c.ebytes) x → t.mem.read x.toNat = s.mem.read x.toNat) ∧
        (c.m = 15#4 → t.readR c.n = s.readR c.n) ∧
        (c.m ≠ 15#4 → t.readR c.n = Config.unknownWord (s.draws + 4 * c.ebytes)) ∧
        (∀ r : RegNum, r ≠ c.n → r ≠ 15#4 → t.readR r = s.readR r) ∧
        t = { s with gpr := t.gpr, pc := s.pc + 4#32, mem := t.mem, draws := t.draws })

/-! ### Frames and what may influence what -/

/-- The frame (R123, which the spec derives): whatever an instruction answers, it changes nothing but the bytes of its block, its base register where it writes back,
and the `pc` (and the model's counter of draws): no `D` register, no flag, no control register, no parameter, no other byte. A fault
that is not a Data Abort has changed nothing. -/
def Obligations.OnlyBlockBaseAndPcChange : Prop :=
  ∀ (i : Instr) (s : State),
    (∀ t, exec i s = .next t → ∃ c, consts? i = some c ∧
      t = { s with gpr := t.gpr, pc := s.pc + 4#32, mem := t.mem, draws := t.draws } ∧
      (∀ r : RegNum, r ≠ 15#4 → (r ≠ c.n ∨ c.m = 15#4) → t.readR r = s.readR r) ∧
      (∀ x : Word, ¬ inBlock (s.readR c.n) (4 * c.ebytes) x → t.mem.read x.toNat = s.mem.read x.toNat)) ∧
    (∀ f, exec i s = .fault f → (∀ a t, f ≠ .dataAbort a t) → f.left = s)

/-- The state at a fault (R147: the spec's decision D9; log entries 7, 9). Every outcome but a Data Abort leaves the state before. A Data
Abort leaves every register, the `pc` and every byte outside the block as before, and each byte of the block UNKNOWN. -/
def Obligations.FaultsLeaveThisState : Prop :=
  ∀ (i : Instr) (s : State),
    (∀ f, exec i s = .fault f → (∀ a t, f ≠ .dataAbort a t) → f.left = s) ∧
    (∀ a t, exec i s = .fault (.dataAbort a t) → ∃ c, consts? i = some c ∧
      (∀ j < 4 * c.ebytes, t.mem.read (s.readR c.n + BitVec.ofNat 32 j).toNat = some (Config.unknownByte (s.draws + j))) ∧
      (∀ x : Word, ¬ inBlock (s.readR c.n) (4 * c.ebytes) x → t.mem.read x.toNat = s.mem.read x.toNat) ∧
      t = { s with mem := t.mem, draws := t.draws })

/-- The `pc` advances by 4 when an instruction ends without a fault, and stays at the faulting instruction when one ends with one (R97:
the spec's decision D4; log entry 17). -/
def Obligations.PcAdvancesOrStays : Prop :=
  ∀ (i : Instr) (s : State),
    (∀ t, exec i s = .next t → t.pc = s.pc + 4#32) ∧ (∀ f, exec i s = .fault f → f.left.pc = s.pc)

/-- In every outcome, the flags matter only through the condition (R26), and `PSTATE.EL` only through whether it is EL0 (R27); and no
field of `PSTATE` is written, in a next state or in the state a fault leaves (R98, which the spec derives). -/
def Obligations.PstateReadOnlyThroughTests : Prop :=
  ∀ (i : Instr) (s : State) (n z c v : Bool) (e : EL),
    conditionHolds (condOf i s) n z c v = conditionHolds (condOf i s) s.flagN s.flagZ s.flagC s.flagV →
    (e = .el0 ↔ s.el = .el0) →
    exec i { s with flagN := n, flagZ := z, flagC := c, flagV := v, el := e } =
      mapResult (fun t => { t with flagN := n, flagZ := z, flagC := c, flagV := v, el := e }) (exec i s) ∧
    (∀ t, leaves (exec i s) t → t.flagN = s.flagN ∧ t.flagZ = s.flagZ ∧ t.flagC = s.flagC ∧ t.flagV = s.flagV ∧ t.el = s.el ∧
      t.dit = s.dit ∧ t.instrSet = s.instrSet ∧ t.bigEndianData = s.bigEndianData)

/-- In every outcome, the control registers, the Security state and the PE mode, which the model holds beside the parameter (R33, the
spec's decision D6; log entry 6), matter only through the verdict of `CheckAdvSIMDEnabled()`, and are not written; nor does
`PSTATE.DIT` matter (R173). -/
def Obligations.ControlRegistersOnlyThroughVerdict : Prop :=
  ∀ (i : Instr) (s : State) (cp ns hc fp : Word) (sec : SecurityState) (md : PEMode) (dit a b : Bool),
    exec i { s with cpacr := cp, nsacr := ns, hcptr := hc, fpexc := fp, security := sec, mode := md, dit := dit,
                    el3AArch32 := a, el2Enabled := b } =
      mapResult (fun t => { t with cpacr := cp, nsacr := ns, hcptr := hc, fpexc := fp, security := sec, mode := md, dit := dit,
                                   el3AArch32 := a, el2Enabled := b }) (exec i s) ∧
    (∀ t, leaves (exec i s) t → t.cpacr = s.cpacr ∧ t.nsacr = s.nsacr ∧ t.hcptr = s.hcptr ∧ t.fpexc = s.fpexc ∧
      t.security = s.security ∧ t.mode = s.mode ∧ t.dit = s.dit ∧ t.el3AArch32 = s.el3AArch32 ∧ t.el2Enabled = s.el2Enabled)

/-- R31: in every outcome, of the `D` registers only the selected lane of the four listed ones matters; none is written, in a next state
or in the state a fault leaves; and the four are distinct. -/
def Obligations.OnlyListedLanesAreRead : Prop :=
  ∀ (i : Instr) (s : State) (file : Vector DWord 32),
    (∀ c, consts? i = some c → ∀ k < 4,
      (({ s with dreg := file } : State).readD (c.d + k * c.inc)).extractLsb' (c.index * (8 * c.ebytes)) (8 * c.ebytes) =
      (s.readD (c.d + k * c.inc)).extractLsb' (c.index * (8 * c.ebytes)) (8 * c.ebytes)) →
    exec i { s with dreg := file } = mapResult (fun t => { t with dreg := file }) (exec i s) ∧
    (∀ t, leaves (exec i s) t → t.dreg = s.dreg) ∧
    (∀ c, consts? i = some c → ∀ k < 4, ∀ k' < 4, c.d + k * c.inc = c.d + k' * c.inc → k = k')

/-- R23: in every outcome, of the general registers only `R[n]`, and `R[m]` in the Post-indexed (register) variant, matter: with other
registers that agree on those, the outcome is the same, with those other registers and the same `R[n]` left; and without writeback, or
at a fault, no general register is written. -/
def Obligations.OnlyBaseAndIndexAreRead : Prop :=
  ∀ (i : Instr) (c : DecodeConsts) (s : State) (file : Vector Word 15), consts? i = some c →
    ({ s with gpr := file } : State).readR c.n = s.readR c.n →
    (c.m ≠ 15#4 ∧ c.m ≠ 13#4 → ({ s with gpr := file } : State).readR c.m = s.readR c.m) →
    exec i { s with gpr := file } =
      mapResult (fun t => ({ t with gpr := file } : State).writeR c.n (t.readR c.n)) (exec i s) ∧
    (c.m = 15#4 → ∀ t, exec i s = .next t → t.gpr = s.gpr) ∧
    (∀ f, exec i s = .fault f → f.left.gpr = s.gpr)

/-! ### Invariants -/

/-- From every state that has it, a step keeps the invariant: both memories canonical and apart, the `pc` aligned. -/
def Obligations.StepKeepsInv : Prop :=
  ∀ s t : State, s.Inv → step s = .next t → t.Inv

/-- The model's reset state has the invariant, its settings agree, and the parameters for which R6 states a default have it. Its other
values are the model's choice (log entries 2 and 3). -/
def Obligations.ResetMeetsLaunch : Prop :=
  State.reset.Inv ∧ State.reset.SettingsAgree ∧
    State.reset.cuChoice = .refuse ∧ State.reset.bigEndianData = false ∧ State.reset.currentCond = 14#4

/-- A step leaves the program text, and every byte of data memory at an address of the text, even where data are listed there (R36,
R56: the spec's decision D19). -/
def Obligations.StepLeavesTextBytes : Prop :=
  ∀ s t : State, step s = .next t →
    t.text = s.text ∧ ∀ x : Word, (s.text.read x.toNat).isSome = true → t.mem.read x.toNat = s.mem.read x.toNat

/-- How a program comes to run (log entry 14, the model's choice): the word of a well-formed instruction, placed at a `pc` that is aligned
for its instruction set, is what the next step fetches and executes; placed in the reset state (log entries 2 and 3) it meets the
preconditions of R171 (the spec's decision D16). -/
def Obligations.LoadedInstrIsLaunched : Prop :=
  ∀ i : Instr, WellFormed i = true →
    (∀ s : State, s.pc.toNat % (match i.instrSet with | .a32 => 4 | .t32 => 2) = 0 →
      step (s.withFetchWord 32 (encode i).toNat) = exec i (s.withFetchWord 32 (encode i).toNat)) ∧
    (State.reset.withFetchWord 32 (encode i).toNat).LaunchOk i

/-- From a launch state (R171, the spec's decision D16) a store that is not UNPREDICTABLE, enabled, aligned and admitted, and whose
condition holds, completes in one step with its whole effect. -/
def Obligations.LaunchedStoreCompletes : Prop :=
  ∀ (i : Instr) (c : DecodeConsts) (s : State), s.LaunchOk i → consts? i = some c → c.n ≠ 15#4 → c.d + 3 * c.inc ≤ 31 →
    s.enableVerdict = .enabled → (s.readR c.n).toNat % c.alignment = 0 →
    (s.strictAlign = true → (s.readR c.n).toNat % c.ebytes = 0) →
    (∀ k < 4, memAdmit s.admitRules (s.readR c.n + BitVec.ofNat 32 (k * c.ebytes)) c.ebytes (decide (s.elOfMode ≠ .el0)) true = .ok) →
    conditionHolds (condOf i s) s.flagN s.flagZ s.flagC s.flagV = true →
    ∃ t, step s = .next t ∧ StoreEffect c s t

/-- The end of a run (R174: the spec's decision D15; log entry 28). `Completed` only after at least one step, when every byte of the program
text lies within the instructions that have executed in a straight line from the start and the `pc` is just past the last of them; and
whenever a run gets there, it ends as `Completed`. `Faulted` and `Refused` are the first step that faults or refuses. -/
def Obligations.RunEndSaysWhatRan : Prop :=
  ∀ (k : Nat) (s : State),
    (∀ t, runEnd k s = .completed t → ∃ n, 0 < n ∧ n ≤ k ∧ Sys2Proof.core.run n s = .next t ∧ t.pc = s.pc + BitVec.ofNat 32 (4 * n) ∧
      ∀ x : Word, (s.text.read x.toNat).isSome = true → (x - s.pc).toNat < 4 * n) ∧
    (∀ f, runEnd k s = .faulted f → ∃ n u, n < k ∧ Sys2Proof.core.run n s = .next u ∧ step u = .fault f) ∧
    (∀ r, runEnd k s = .refused r → ∃ n u, n < k ∧ Sys2Proof.core.run n s = .next u ∧ step u = .refused r) ∧
    (∀ n t, 0 < n → n ≤ k → Sys2Proof.core.run n s = .next t → s.text.wf = true →
      (∀ x : Word, (s.text.read x.toNat).isSome = true → (x - s.pc).toNat < 4 * n) → ∃ u, runEnd k s = .completed u)

/-- Along every run, from any state: after `k` steps the `pc` has advanced by `4*k`, and the program text, the `D` registers, the flags
and the parameters are those of the start. -/
def Obligations.RunAdvancesStraightLine : Prop :=
  ∀ (k : Nat) (s t : State), Sys2Proof.core.run k s = .next t →
    t.pc = s.pc + BitVec.ofNat 32 (4 * k) ∧
    t = { s with gpr := t.gpr, pc := t.pc, mem := t.mem, draws := t.draws }

/-- After a Data Abort (R149, which the spec derives), executing the instruction again from the state left, once `MemAdmit` has been repaired, gives the memory,
the registers and the `pc` that it would have given without the abort. -/
def Obligations.ReexecutionAfterAbort : Prop :=
  ∀ (i : Instr) (s t u : State) (a : Word) (rules : List AdmitRule), exec i s = .fault (.dataAbort a t) →
    exec i { s with admitRules := rules } = .next u →
    ∃ v, exec i { t with admitRules := rules } = .next v ∧ (∀ x : Word, v.mem.read x.toNat = u.mem.read x.toNat) ∧
      v = { u with mem := v.mem, draws := v.draws }

/-! ### Shared operations -/

/-- `MemWrite` (R12, R42: the spec's parameter D7) puts each byte of a value at its place in the byte order and leaves every other address; for one byte the
byte order has no effect. -/
def Obligations.MemWritePlacesBytes : Prop :=
  ∀ (be : Bool) (a : Word) (n : Nat) (v : BitVec (8 * n)) (m : Memory), n < 2 ^ 32 →
    (∀ j < n, (memWrite be a n v m).read (a + BitVec.ofNat 32 j).toNat =
      some (v.extractLsb' (8 * (if be then n - 1 - j else j)) 8)) ∧
    (∀ x : Word, ¬ inBlock a n x → (memWrite be a n v m).read x.toNat = m.read x.toNat) ∧
    (∀ b : BitVec (8 * 1), memWrite true a 1 b m = memWrite false a 1 b m)

/-- `MemRead` gives back what `MemWrite` wrote at the same address, size and byte order (R12). -/
def Obligations.MemReadAfterMemWrite : Prop :=
  ∀ (be : Bool) (a : Word) (n : Nat) (v : BitVec (8 * n)) (m : Memory), n = 1 ∨ n = 2 ∨ n = 4 →
    memRead be a n (memWrite be a n v m) = some v

/-- `Elem(v, e, size)` (R11, general knowledge in the spec; log entry 19) is bits `(e+1)*size-1` down to `e*size`. -/
def Obligations.ElemSelectsLane : Prop :=
  ∀ (v : DWord) (e size b : Nat), size = 8 ∨ size = 16 ∨ size = 32 → e < 64 / size → b < size →
    (elem v e size).getLsbD b = v.getLsbD (e * size + b)

/-- The sixteen conditions (R13, general knowledge in the spec: its decision D5; log entry 20). -/
def Obligations.ConditionTable : Prop :=
  ∀ n z c v : Bool,
    conditionHolds 0#4 n z c v = z ∧ conditionHolds 1#4 n z c v = !z ∧
    conditionHolds 2#4 n z c v = c ∧ conditionHolds 3#4 n z c v = !c ∧
    conditionHolds 4#4 n z c v = n ∧ conditionHolds 5#4 n z c v = !n ∧
    conditionHolds 6#4 n z c v = v ∧ conditionHolds 7#4 n z c v = !v ∧
    conditionHolds 8#4 n z c v = (c && !z) ∧ conditionHolds 9#4 n z c v = !(c && !z) ∧
    conditionHolds 10#4 n z c v = (n == v) ∧ conditionHolds 11#4 n z c v = !(n == v) ∧
    conditionHolds 12#4 n z c v = ((n == v) && !z) ∧ conditionHolds 13#4 n z c v = !((n == v) && !z) ∧
    conditionHolds 14#4 n z c v = true ∧ conditionHolds 15#4 n z c v = true

/-- The `Q` and `S` views agree with the `D` registers (R32, general knowledge in the spec: its decision D25). -/
def Obligations.RegisterViewsAgree : Prop :=
  ∀ s : State,
    (∀ i : Fin 16, s.readQ i = s.readD (2 * i.val + 1) ++ s.readD (2 * i.val)) ∧
    (∀ i : Fin 16, s.readD i.val = s.readS ⟨2 * i.val + 1, by omega⟩ ++ s.readS ⟨2 * i.val, by omega⟩)

/-- The sketch of R142 (general knowledge, log entry 6), in every state. Outside Hyp mode: the UNDEFINED checks, those of `NSACR` where
it has an effect (Non-secure with EL3 using AArch32); after them the trap check, a Hyp trap below EL2. In Hyp mode the trap check alone,
with the force that `NSACR` has on it (its reading: log entry 6), an Undefined Instruction exception. What the sketch leaves open
(`cp10 == 10`, a trapped access above EL2) is a free value, of which nothing is said. -/
def Obligations.EnableSketchVerdicts : Prop :=
  ∀ s : State,
    (s.mode ≠ .hyp → (s.cpacr.getLsbD 31 = true ∨ s.cpacr.extractLsb' 20 2 = 0#2 ∨
      (s.cpacr.extractLsb' 20 2 = 1#2 ∧ s.el = .el0) ∨ s.fpexc.getLsbD 30 = false) → s.enableVerdict = .undefined) ∧
    (s.mode ≠ .hyp → s.security = .nonSecure → s.el3AArch32 = true → (s.nsacr.getLsbD 15 = true ∨ s.nsacr.getLsbD 10 = false) →
      s.enableVerdict = .undefined) ∧
    (s.mode ≠ .hyp → s.cpacr.getLsbD 31 = false → (s.cpacr.extractLsb' 20 2 = 3#2 ∨ (s.cpacr.extractLsb' 20 2 = 1#2 ∧ s.el ≠ .el0)) →
      s.fpexc.getLsbD 30 = true →
      (s.security = .secure ∨ s.el3AArch32 = false ∨ (s.nsacr.getLsbD 15 = false ∧ s.nsacr.getLsbD 10 = true)) →
      ((s.el2Enabled = false ∨ (s.hcptr.getLsbD 15 = false ∧ s.hcptr.getLsbD 10 = false)) → s.enableVerdict = .enabled) ∧
      (s.el2Enabled = true → (s.hcptr.getLsbD 15 = true ∨ s.hcptr.getLsbD 10 = true) → s.elOfMode ≠ .el3 → s.enableVerdict = .hypTrap)) ∧
    (s.mode = .hyp →
      s.enableVerdict = if s.el2Enabled = true ∧ (s.hcptr.getLsbD 15 = true ∨ s.hcptr.getLsbD 10 = true ∨
        (s.security = .nonSecure ∧ s.el3AArch32 = true ∧ (s.nsacr.getLsbD 15 = true ∨ s.nsacr.getLsbD 10 = false)))
        then .undefined else .enabled)

/-- With settings that agree (R171 (c)), `CPACR.ASEDIS` disables every store outside Hyp mode (the sketch of R142, log entry 6). -/
def Obligations.AsedisDisablesStores : Prop :=
  ∀ (i : Instr) (c : DecodeConsts) (s : State), consts? i = some c → c.n ≠ 15#4 → c.d + 3 * c.inc ≤ 31 →
    conditionHolds (condOf i s) s.flagN s.flagZ s.flagC s.flagV = true → s.SettingsAgree → s.mode ≠ .hyp →
    s.cpacr.getLsbD 31 = true → exec i s = .fault (.undefined s)
end

