-- ==== Sys2Proof/Laws/Decode.lean ====
section
/-!
SUPPORT. Laws/Decode.lean: packing and unpacking the fields of a word undo each other, and the bytes of a word give it back.
-/

namespace Sys2Proof

/-- Equal fields, equal records. -/
theorem Fields.ext_of_eq {f g : Fields} (h1 : f.dHigh = g.dHigh) (h2 : f.rn = g.rn) (h3 : f.vd = g.vd)
    (h4 : f.size = g.size) (h5 : f.indexAlign = g.indexAlign) (h6 : f.rm = g.rm) : f = g := by
  cases f; cases g; simp_all

/-- Every field of a packed word is found where it was put. -/
theorem unpackFields_packFields (set : InstrSet) (f : Fields) : unpackFields (packFields set f) = f := by
  cases set <;> refine Fields.ext_of_eq ?_ ?_ ?_ ?_ ?_ ?_ <;>
  · refine BitVec.eq_of_getLsbD_eq fun i hi => ?_
    simp only [unpackFields, packFields, spaceMatch, BitVec.getLsbD_extractLsb', BitVec.getLsbD_or,
      BitVec.getLsbD_shiftLeft, BitVec.getLsbD_setWidth]
    interval_cases i <;> simp

/-- A packed word lies in the opcode space of its instruction set. -/
theorem packFields_space (set : InstrSet) (f : Fields) : packFields set f &&& spaceMask = spaceMatch set := by
  cases set <;>
  · refine BitVec.eq_of_getLsbD_eq fun i hi => ?_
    simp only [packFields, spaceMask, spaceMatch, BitVec.getLsbD_and, BitVec.getLsbD_or,
      BitVec.getLsbD_shiftLeft, BitVec.getLsbD_setWidth]
    interval_cases i <;> simp

/-- A word of the opcode space is the packing of its fields: no bit is outside the fields and the fixed bits. -/
theorem packFields_unpackFields (set : InstrSet) (w : Word) (h : w &&& spaceMask = spaceMatch set) :
    packFields set (unpackFields w) = w := by
  refine BitVec.eq_of_getLsbD_eq fun i hi => ?_
  have hb : (w &&& spaceMask).getLsbD i = (spaceMatch set).getLsbD i := by rw [h]
  clear h
  cases set <;>
  · simp only [packFields, unpackFields, spaceMask, spaceMatch, BitVec.getLsbD_and, BitVec.getLsbD_or,
      BitVec.getLsbD_shiftLeft, BitVec.getLsbD_setWidth, BitVec.getLsbD_extractLsb'] at hb ⊢
    interval_cases i <;> simp_all

/-- Bit `i` of a little-endian word (R43). -/
theorem leWord_getLsbD (b0 b1 b2 b3 : Byte) (i : Nat) : (leWord b0 b1 b2 b3).getLsbD i =
    if i < 8 then b0.getLsbD i else if i - 8 < 8 then b1.getLsbD (i - 8)
    else if i - 8 - 8 < 8 then b2.getLsbD (i - 8 - 8) else b3.getLsbD (i - 8 - 8 - 8) := by
  unfold leWord
  erw [BitVec.getLsbD_append, BitVec.getLsbD_append, BitVec.getLsbD_append]

/-- Bit `i` of a little-endian halfword (R43). -/
theorem leHalf_getLsbD (b0 b1 : Byte) (i : Nat) :
    (leHalf b0 b1).getLsbD i = if i < 8 then b0.getLsbD i else b1.getLsbD (i - 8) := by
  unfold leHalf
  erw [BitVec.getLsbD_append]

/-- Bit `i` of `hw1:hw2` (R60). -/
theorem halfPair_getLsbD (hw1 hw2 : Half) (i : Nat) :
    (halfPair hw1 hw2).getLsbD i = if i < 16 then hw2.getLsbD i else hw1.getLsbD (i - 16) := by
  unfold halfPair
  erw [BitVec.getLsbD_append]

/-- The bytes of an A32 word give the word back (R43). -/
theorem leWord_wordBytes (w : Word) :
    leWord (w.extractLsb' 0 8) (w.extractLsb' 8 8) (w.extractLsb' 16 8) (w.extractLsb' 24 8) = w := by
  refine BitVec.eq_of_getLsbD_eq fun i hi => ?_
  simp only [leWord_getLsbD, BitVec.getLsbD_extractLsb']
  interval_cases i <;> simp

/-- The bytes of a T32 pair give `hw1:hw2` back (R43). -/
theorem halfPair_wordBytes (w : Word) :
    halfPair (leHalf (w.extractLsb' 16 8) (w.extractLsb' 24 8)) (leHalf (w.extractLsb' 0 8) (w.extractLsb' 8 8)) = w := by
  refine BitVec.eq_of_getLsbD_eq fun i hi => ?_
  simp only [halfPair_getLsbD, leHalf_getLsbD, BitVec.getLsbD_extractLsb']
  interval_cases i <;> simp

/-- A word of the T32 opcode space starts with a halfword that begins `11111` (R74). -/
theorem startsWideT32_of_space (w : Word) (h : w &&& spaceMask = spaceMatch .t32) :
    startsWideT32 (leHalf (w.extractLsb' 16 8) (w.extractLsb' 24 8)) = true := by
  have hb : ∀ i, (w &&& spaceMask).getLsbD i = (spaceMatch .t32).getLsbD i := fun i => by rw [h]
  have h5 : (leHalf (w.extractLsb' 16 8) (w.extractLsb' 24 8)).extractLsb' 11 5 = 0b11111#5 := by
    refine BitVec.eq_of_getLsbD_eq fun i hi => ?_
    have := hb (27 + i)
    simp only [spaceMask, spaceMatch, BitVec.getLsbD_and] at this
    simp only [leHalf_getLsbD, BitVec.getLsbD_extractLsb']
    interval_cases i <;> simp_all
  simp [startsWideT32, h5]

/-- What `decodeWord` answers (R81): outside the opcode space the refusal by name, inside it the row the fields select. -/
theorem decodeWord_cases (set : InstrSet) (w : Word) :
    (w &&& spaceMask = spaceMatch set ∧ decodeWord set w = .ok (instrOfFields set (unpackFields w))) ∨
    (w &&& spaceMask ≠ spaceMatch set ∧ decodeWord set w = .error (.notVst4SingleLane w)) := by
  by_cases h : w &&& spaceMask = spaceMatch set
  · exact .inl ⟨h, by simp [decodeWord, h]⟩
  · exact .inr ⟨h, by simp [decodeWord, h]⟩

end Sys2Proof
end

