-- ==== Sys2Proof/Laws/Memory.lean ====
section
/-!
SUPPORT. Laws/Memory.lean: what the memory operations do to every address, and that each keeps the canonical form.
-/

namespace Sys2Proof.Machine

/-! ### One byte -/

/-- A byte reads as what was written; every other address reads as before. -/
theorem Memory.read_write (m : Memory) (a x : Nat) (b : Byte) :
    (Memory.write m a b).read x = if x = a then some b else Memory.read m x := by
  induction m with
  | nil => simp only [Memory.write, Memory.read, eq_comm]
  | cons p rest ih =>
    obtain ⟨k, v⟩ := p
    simp only [Memory.write]
    split
    · simp only [Memory.read, eq_comm]
    · split
      · subst k
        by_cases hx : x = a
        · simp [Memory.read, hx]
        · simp [Memory.read, hx, Ne.symm hx]
      · simp only [Memory.read, ih]
        split <;> [skip; rfl]
        split <;> simp_all

@[simp] theorem Memory.read_write_same (m : Memory) (a : Nat) (b : Byte) : (Memory.write m a b).read a = some b := by
  simp [Memory.read_write]

theorem Memory.read_write_other (m : Memory) {a x : Nat} (b : Byte) (h : x ≠ a) :
    (Memory.write m a b).read x = Memory.read m x := by
  simp [Memory.read_write, h]

/-! ### The canonical form -/

/-- A write keeps the canonical form from any lower bound on. -/
theorem Memory.wfFrom_write (m : Memory) (lo a : Nat) (b : Byte) (h : Memory.wfFrom lo m = true) (hlo : lo ≤ a)
    (ha : a < 2 ^ 32) : Memory.wfFrom lo (Memory.write m a b) = true := by
  induction m generalizing lo with
  | nil => simp only [Memory.write, Memory.wfFrom, hlo, ha, decide_true, Bool.and_self]
  | cons p rest ih =>
    obtain ⟨k, v⟩ := p
    simp only [Memory.wfFrom, Bool.and_eq_true, decide_eq_true_eq] at h
    obtain ⟨⟨hk, hk32⟩, hrest⟩ := h
    simp only [Memory.write]
    split
    · simp only [Memory.wfFrom, Bool.and_eq_true, decide_eq_true_eq]
      exact ⟨⟨hlo, ha⟩, ⟨by omega, hk32⟩, hrest⟩
    · split
      · subst k
        simp only [Memory.wfFrom, Bool.and_eq_true, decide_eq_true_eq]
        exact ⟨⟨hlo, ha⟩, hrest⟩
      · simp only [Memory.wfFrom, Bool.and_eq_true, decide_eq_true_eq]
        exact ⟨⟨hk, hk32⟩, ih (k + 1) hrest (by omega)⟩

/-- A write inside the address space keeps the canonical form. -/
theorem Memory.wf_write (m : Memory) (a : Nat) (b : Byte) (h : m.wf = true) (ha : a < 2 ^ 32) :
    (Memory.write m a b).wf = true :=
  Memory.wfFrom_write m 0 a b h (Nat.zero_le a) ha

/-- A write of several bytes keeps the canonical form. -/
theorem Memory.wf_writeBytes (bs : List Byte) : ∀ (m : Memory) (a : Word), m.wf = true → (m.writeBytes a bs).wf = true := by
  induction bs with
  | nil => intro m a h; exact h
  | cons b rest ih => intro m a h; exact ih _ _ (Memory.wf_write m _ b h a.isLt)

/-- A canonical memory lists nothing below its bound. -/
theorem Memory.read_below (m : Memory) (lo x : Nat) (h : Memory.wfFrom lo m = true) (hx : x < lo) :
    Memory.read m x = none := by
  induction m generalizing lo with
  | nil => rfl
  | cons p rest ih =>
    obtain ⟨k, v⟩ := p
    simp only [Memory.wfFrom, Bool.and_eq_true, decide_eq_true_eq] at h
    simp only [Memory.read]
    rw [if_neg (by omega)]
    exact ih (k + 1) h.2 (by omega)

/-- Canonical memories that read alike at every address are equal: equal memories are equal data. -/
theorem Memory.ext_of_wfFrom (m m' : Memory) (lo : Nat) (h : Memory.wfFrom lo m = true) (h' : Memory.wfFrom lo m' = true)
    (hr : ∀ x, Memory.read m x = Memory.read m' x) : m = m' := by
  induction m generalizing m' lo with
  | nil =>
    cases m' with
    | nil => rfl
    | cons p r => obtain ⟨k, v⟩ := p; simpa [Memory.read] using hr k
  | cons p rest ih =>
    obtain ⟨k, v⟩ := p
    cases m' with
    | nil => simpa [Memory.read] using hr k
    | cons p' rest' =>
      obtain ⟨k', v'⟩ := p'
      simp only [Memory.wfFrom, Bool.and_eq_true, decide_eq_true_eq] at h h'
      obtain ⟨_, hrest⟩ := h
      obtain ⟨_, hrest'⟩ := h'
      have hk : k = k' := by
        by_contra hne
        rcases Nat.lt_or_gt_of_ne hne with hlt | hgt
        · have h1 := hr k
          simp only [Memory.read, if_true, if_neg (Ne.symm hne)] at h1
          rw [Memory.read_below rest' (k' + 1) k hrest' (by omega)] at h1
          cases h1
        · have h1 := hr k'
          simp only [Memory.read, if_true, if_neg hne] at h1
          rw [Memory.read_below rest (k + 1) k' hrest (by omega)] at h1
          cases h1
      subst hk
      have hv : v = v' := by simpa [Memory.read] using hr k
      subst hv
      have : rest = rest' := by
        refine ih rest' (k + 1) hrest hrest' fun x => ?_
        by_cases hx : k = x
        · subst hx
          rw [Memory.read_below rest (k + 1) k hrest (by omega), Memory.read_below rest' (k + 1) k hrest' (by omega)]
        · simpa [Memory.read, hx] using hr x
      rw [this]

/-- Canonical memories that read alike are equal. -/
theorem Memory.ext_of_wf {m m' : Memory} (h : m.wf = true) (h' : m'.wf = true)
    (hr : ∀ x, Memory.read m x = Memory.read m' x) : m = m' :=
  Memory.ext_of_wfFrom m m' 0 h h' hr

/-- A canonical memory lists nothing outside the address space. -/
theorem Memory.read_outside (m : Memory) (lo x : Nat) (h : Memory.wfFrom lo m = true) (hx : 2 ^ 32 ≤ x) :
    Memory.read m x = none := by
  induction m generalizing lo with
  | nil => rfl
  | cons p rest ih =>
    obtain ⟨k, v⟩ := p
    simp only [Memory.wfFrom, Bool.and_eq_true, decide_eq_true_eq] at h
    simp only [Memory.read]
    rw [if_neg (by omega)]
    exact ih (k + 1) h.2

/-! ### Several bytes -/

/-- The distance of an address from a block's base, one byte further on. -/
theorem sub_add_one_toNat (a x : Word) (h : x ≠ a) : (x - (a + 1#32)).toNat + 1 = (x - a).toNat := by
  have : x - a ≠ 0#32 := fun e => h (by bv_omega)
  bv_omega

/-- What a write of several bytes does to every address of the 32-bit space: inside the block, the byte at that distance;
outside, as before. -/
theorem Memory.read_writeBytes (bs : List Byte) : ∀ (m : Memory) (a x : Word), bs.length < 2 ^ 32 →
    (m.writeBytes a bs).read x.toNat =
      if h : (x - a).toNat < bs.length then some (bs[(x - a).toNat]'h) else m.read x.toNat := by
  induction bs with
  | nil => intro m a x _; simp [Memory.writeBytes]
  | cons b rest ih =>
    intro m a x hlen
    simp only [List.length_cons] at hlen
    have h1 := ih (Memory.write m a.toNat b) (a + 1#32) x (by omega)
    simp only [Memory.writeBytes, h1]
    by_cases hx : x = a
    · subst hx
      have hfar : (x - (x + 1#32)).toNat = 2 ^ 32 - 1 := by bv_omega
      have h0 : (x - x).toNat = 0 := by simp
      rw [dif_neg (by omega)]
      simp
    · have hd := sub_add_one_toNat a x hx
      have hne : x.toNat ≠ a.toNat := fun e => hx (BitVec.eq_of_toNat_eq e)
      rw [Memory.read_write_other _ _ hne]
      by_cases hin : (x - (a + 1#32)).toNat < rest.length
      · rw [dif_pos hin, dif_pos (by simp only [List.length_cons]; omega)]
        simp only [← hd, List.getElem_cons_succ]
      · rw [dif_neg hin, dif_neg (by simp only [List.length_cons]; omega)]

/-- The byte at a distance inside the block. -/
theorem Memory.read_writeBytes_in (m : Memory) (a : Word) (bs : List Byte) (j : Nat) (hj : j < bs.length)
    (hlen : bs.length < 2 ^ 32) : (m.writeBytes a bs).read (a + BitVec.ofNat 32 j).toNat = some bs[j] := by
  have hd : (a + BitVec.ofNat 32 j - a).toNat = j := by
    have : j < 2 ^ 32 := by omega
    bv_omega
  rw [Memory.read_writeBytes bs m a _ hlen, dif_pos (by omega)]
  simp only [hd]

/-- An address outside the block. -/
theorem Memory.read_writeBytes_out (m : Memory) (a x : Word) (bs : List Byte) (hx : bs.length ≤ (x - a).toNat)
    (hlen : bs.length < 2 ^ 32) : (m.writeBytes a bs).read x.toNat = m.read x.toNat := by
  rw [Memory.read_writeBytes bs m a _ hlen, dif_neg (by omega)]

end Sys2Proof.Machine
end

