-- ==== Sys2Proof/Laws/State.lean ====
section
/-!
SUPPORT. Laws/State.lean: what each state update leaves and sets, one lemma per field per update, and the laws of the
register accessors, so that no later proof unfolds a record update.
-/

namespace Sys2Proof.Machine

/-! ### setPc -/

@[simp] theorem State.setPc_gpr (s : State) (v : Word) : (s.setPc v).gpr = s.gpr := rfl
@[simp] theorem State.setPc_pc (s : State) (v : Word) : (s.setPc v).pc = v := rfl
@[simp] theorem State.setPc_dreg (s : State) (v : Word) : (s.setPc v).dreg = s.dreg := rfl
@[simp] theorem State.setPc_flagN (s : State) (v : Word) : (s.setPc v).flagN = s.flagN := rfl
@[simp] theorem State.setPc_flagZ (s : State) (v : Word) : (s.setPc v).flagZ = s.flagZ := rfl
@[simp] theorem State.setPc_flagC (s : State) (v : Word) : (s.setPc v).flagC = s.flagC := rfl
@[simp] theorem State.setPc_flagV (s : State) (v : Word) : (s.setPc v).flagV = s.flagV := rfl
@[simp] theorem State.setPc_el (s : State) (v : Word) : (s.setPc v).el = s.el := rfl
@[simp] theorem State.setPc_dit (s : State) (v : Word) : (s.setPc v).dit = s.dit := rfl
@[simp] theorem State.setPc_instrSet (s : State) (v : Word) : (s.setPc v).instrSet = s.instrSet := rfl
@[simp] theorem State.setPc_conds (s : State) (v : Word) : (s.setPc v).conds = s.conds := rfl
@[simp] theorem State.setPc_advSIMDAccess (s : State) (v : Word) : (s.setPc v).advSIMDAccess = s.advSIMDAccess := rfl
@[simp] theorem State.setPc_cpacr (s : State) (v : Word) : (s.setPc v).cpacr = s.cpacr := rfl
@[simp] theorem State.setPc_nsacr (s : State) (v : Word) : (s.setPc v).nsacr = s.nsacr := rfl
@[simp] theorem State.setPc_hcptr (s : State) (v : Word) : (s.setPc v).hcptr = s.hcptr := rfl
@[simp] theorem State.setPc_fpexc (s : State) (v : Word) : (s.setPc v).fpexc = s.fpexc := rfl
@[simp] theorem State.setPc_security (s : State) (v : Word) : (s.setPc v).security = s.security := rfl
@[simp] theorem State.setPc_mode (s : State) (v : Word) : (s.setPc v).mode = s.mode := rfl
@[simp] theorem State.setPc_el3AArch32 (s : State) (v : Word) : (s.setPc v).el3AArch32 = s.el3AArch32 := rfl
@[simp] theorem State.setPc_el2Enabled (s : State) (v : Word) : (s.setPc v).el2Enabled = s.el2Enabled := rfl
@[simp] theorem State.setPc_bigEndianData (s : State) (v : Word) : (s.setPc v).bigEndianData = s.bigEndianData := rfl
@[simp] theorem State.setPc_strictAlign (s : State) (v : Word) : (s.setPc v).strictAlign = s.strictAlign := rfl
@[simp] theorem State.setPc_admitRules (s : State) (v : Word) : (s.setPc v).admitRules = s.admitRules := rfl
@[simp] theorem State.setPc_cuChoice (s : State) (v : Word) : (s.setPc v).cuChoice = s.cuChoice := rfl
@[simp] theorem State.setPc_text (s : State) (v : Word) : (s.setPc v).text = s.text := rfl
@[simp] theorem State.setPc_mem (s : State) (v : Word) : (s.setPc v).mem = s.mem := rfl
@[simp] theorem State.setPc_draws (s : State) (v : Word) : (s.setPc v).draws = s.draws := rfl

/-! ### advancePc -/

@[simp] theorem State.advancePc_gpr (s : State) : (s.advancePc).gpr = s.gpr := rfl
@[simp] theorem State.advancePc_pc (s : State) : (s.advancePc).pc = s.pc + 4#32 := rfl
@[simp] theorem State.advancePc_dreg (s : State) : (s.advancePc).dreg = s.dreg := rfl
@[simp] theorem State.advancePc_flagN (s : State) : (s.advancePc).flagN = s.flagN := rfl
@[simp] theorem State.advancePc_flagZ (s : State) : (s.advancePc).flagZ = s.flagZ := rfl
@[simp] theorem State.advancePc_flagC (s : State) : (s.advancePc).flagC = s.flagC := rfl
@[simp] theorem State.advancePc_flagV (s : State) : (s.advancePc).flagV = s.flagV := rfl
@[simp] theorem State.advancePc_el (s : State) : (s.advancePc).el = s.el := rfl
@[simp] theorem State.advancePc_dit (s : State) : (s.advancePc).dit = s.dit := rfl
@[simp] theorem State.advancePc_instrSet (s : State) : (s.advancePc).instrSet = s.instrSet := rfl
@[simp] theorem State.advancePc_conds (s : State) : (s.advancePc).conds = s.conds := rfl
@[simp] theorem State.advancePc_advSIMDAccess (s : State) : (s.advancePc).advSIMDAccess = s.advSIMDAccess := rfl
@[simp] theorem State.advancePc_cpacr (s : State) : (s.advancePc).cpacr = s.cpacr := rfl
@[simp] theorem State.advancePc_nsacr (s : State) : (s.advancePc).nsacr = s.nsacr := rfl
@[simp] theorem State.advancePc_hcptr (s : State) : (s.advancePc).hcptr = s.hcptr := rfl
@[simp] theorem State.advancePc_fpexc (s : State) : (s.advancePc).fpexc = s.fpexc := rfl
@[simp] theorem State.advancePc_security (s : State) : (s.advancePc).security = s.security := rfl
@[simp] theorem State.advancePc_mode (s : State) : (s.advancePc).mode = s.mode := rfl
@[simp] theorem State.advancePc_el3AArch32 (s : State) : (s.advancePc).el3AArch32 = s.el3AArch32 := rfl
@[simp] theorem State.advancePc_el2Enabled (s : State) : (s.advancePc).el2Enabled = s.el2Enabled := rfl
@[simp] theorem State.advancePc_bigEndianData (s : State) : (s.advancePc).bigEndianData = s.bigEndianData := rfl
@[simp] theorem State.advancePc_strictAlign (s : State) : (s.advancePc).strictAlign = s.strictAlign := rfl
@[simp] theorem State.advancePc_admitRules (s : State) : (s.advancePc).admitRules = s.admitRules := rfl
@[simp] theorem State.advancePc_cuChoice (s : State) : (s.advancePc).cuChoice = s.cuChoice := rfl
@[simp] theorem State.advancePc_text (s : State) : (s.advancePc).text = s.text := rfl
@[simp] theorem State.advancePc_mem (s : State) : (s.advancePc).mem = s.mem := rfl
@[simp] theorem State.advancePc_draws (s : State) : (s.advancePc).draws = s.draws := rfl

/-! ### setMem -/

@[simp] theorem State.setMem_gpr (s : State) (m : Memory) : (s.setMem m).gpr = s.gpr := rfl
@[simp] theorem State.setMem_pc (s : State) (m : Memory) : (s.setMem m).pc = s.pc := rfl
@[simp] theorem State.setMem_dreg (s : State) (m : Memory) : (s.setMem m).dreg = s.dreg := rfl
@[simp] theorem State.setMem_flagN (s : State) (m : Memory) : (s.setMem m).flagN = s.flagN := rfl
@[simp] theorem State.setMem_flagZ (s : State) (m : Memory) : (s.setMem m).flagZ = s.flagZ := rfl
@[simp] theorem State.setMem_flagC (s : State) (m : Memory) : (s.setMem m).flagC = s.flagC := rfl
@[simp] theorem State.setMem_flagV (s : State) (m : Memory) : (s.setMem m).flagV = s.flagV := rfl
@[simp] theorem State.setMem_el (s : State) (m : Memory) : (s.setMem m).el = s.el := rfl
@[simp] theorem State.setMem_dit (s : State) (m : Memory) : (s.setMem m).dit = s.dit := rfl
@[simp] theorem State.setMem_instrSet (s : State) (m : Memory) : (s.setMem m).instrSet = s.instrSet := rfl
@[simp] theorem State.setMem_conds (s : State) (m : Memory) : (s.setMem m).conds = s.conds := rfl
@[simp] theorem State.setMem_advSIMDAccess (s : State) (m : Memory) : (s.setMem m).advSIMDAccess = s.advSIMDAccess := rfl
@[simp] theorem State.setMem_cpacr (s : State) (m : Memory) : (s.setMem m).cpacr = s.cpacr := rfl
@[simp] theorem State.setMem_nsacr (s : State) (m : Memory) : (s.setMem m).nsacr = s.nsacr := rfl
@[simp] theorem State.setMem_hcptr (s : State) (m : Memory) : (s.setMem m).hcptr = s.hcptr := rfl
@[simp] theorem State.setMem_fpexc (s : State) (m : Memory) : (s.setMem m).fpexc = s.fpexc := rfl
@[simp] theorem State.setMem_security (s : State) (m : Memory) : (s.setMem m).security = s.security := rfl
@[simp] theorem State.setMem_mode (s : State) (m : Memory) : (s.setMem m).mode = s.mode := rfl
@[simp] theorem State.setMem_el3AArch32 (s : State) (m : Memory) : (s.setMem m).el3AArch32 = s.el3AArch32 := rfl
@[simp] theorem State.setMem_el2Enabled (s : State) (m : Memory) : (s.setMem m).el2Enabled = s.el2Enabled := rfl
@[simp] theorem State.setMem_bigEndianData (s : State) (m : Memory) : (s.setMem m).bigEndianData = s.bigEndianData := rfl
@[simp] theorem State.setMem_strictAlign (s : State) (m : Memory) : (s.setMem m).strictAlign = s.strictAlign := rfl
@[simp] theorem State.setMem_admitRules (s : State) (m : Memory) : (s.setMem m).admitRules = s.admitRules := rfl
@[simp] theorem State.setMem_cuChoice (s : State) (m : Memory) : (s.setMem m).cuChoice = s.cuChoice := rfl
@[simp] theorem State.setMem_text (s : State) (m : Memory) : (s.setMem m).text = s.text := rfl
@[simp] theorem State.setMem_mem (s : State) (m : Memory) : (s.setMem m).mem = m := rfl
@[simp] theorem State.setMem_draws (s : State) (m : Memory) : (s.setMem m).draws = s.draws := rfl

/-! ### writeR -/

@[simp] theorem State.writeR_dreg (s : State) (i : RegNum) (v : Word) : (s.writeR i v).dreg = s.dreg := rfl
@[simp] theorem State.writeR_flagN (s : State) (i : RegNum) (v : Word) : (s.writeR i v).flagN = s.flagN := rfl
@[simp] theorem State.writeR_flagZ (s : State) (i : RegNum) (v : Word) : (s.writeR i v).flagZ = s.flagZ := rfl
@[simp] theorem State.writeR_flagC (s : State) (i : RegNum) (v : Word) : (s.writeR i v).flagC = s.flagC := rfl
@[simp] theorem State.writeR_flagV (s : State) (i : RegNum) (v : Word) : (s.writeR i v).flagV = s.flagV := rfl
@[simp] theorem State.writeR_el (s : State) (i : RegNum) (v : Word) : (s.writeR i v).el = s.el := rfl
@[simp] theorem State.writeR_dit (s : State) (i : RegNum) (v : Word) : (s.writeR i v).dit = s.dit := rfl
@[simp] theorem State.writeR_instrSet (s : State) (i : RegNum) (v : Word) : (s.writeR i v).instrSet = s.instrSet := rfl
@[simp] theorem State.writeR_conds (s : State) (i : RegNum) (v : Word) : (s.writeR i v).conds = s.conds := rfl
@[simp] theorem State.writeR_advSIMDAccess (s : State) (i : RegNum) (v : Word) : (s.writeR i v).advSIMDAccess = s.advSIMDAccess := rfl
@[simp] theorem State.writeR_cpacr (s : State) (i : RegNum) (v : Word) : (s.writeR i v).cpacr = s.cpacr := rfl
@[simp] theorem State.writeR_nsacr (s : State) (i : RegNum) (v : Word) : (s.writeR i v).nsacr = s.nsacr := rfl
@[simp] theorem State.writeR_hcptr (s : State) (i : RegNum) (v : Word) : (s.writeR i v).hcptr = s.hcptr := rfl
@[simp] theorem State.writeR_fpexc (s : State) (i : RegNum) (v : Word) : (s.writeR i v).fpexc = s.fpexc := rfl
@[simp] theorem State.writeR_security (s : State) (i : RegNum) (v : Word) : (s.writeR i v).security = s.security := rfl
@[simp] theorem State.writeR_mode (s : State) (i : RegNum) (v : Word) : (s.writeR i v).mode = s.mode := rfl
@[simp] theorem State.writeR_el3AArch32 (s : State) (i : RegNum) (v : Word) : (s.writeR i v).el3AArch32 = s.el3AArch32 := rfl
@[simp] theorem State.writeR_el2Enabled (s : State) (i : RegNum) (v : Word) : (s.writeR i v).el2Enabled = s.el2Enabled := rfl
@[simp] theorem State.writeR_bigEndianData (s : State) (i : RegNum) (v : Word) : (s.writeR i v).bigEndianData = s.bigEndianData := rfl
@[simp] theorem State.writeR_strictAlign (s : State) (i : RegNum) (v : Word) : (s.writeR i v).strictAlign = s.strictAlign := rfl
@[simp] theorem State.writeR_admitRules (s : State) (i : RegNum) (v : Word) : (s.writeR i v).admitRules = s.admitRules := rfl
@[simp] theorem State.writeR_cuChoice (s : State) (i : RegNum) (v : Word) : (s.writeR i v).cuChoice = s.cuChoice := rfl
@[simp] theorem State.writeR_text (s : State) (i : RegNum) (v : Word) : (s.writeR i v).text = s.text := rfl
@[simp] theorem State.writeR_mem (s : State) (i : RegNum) (v : Word) : (s.writeR i v).mem = s.mem := rfl
@[simp] theorem State.writeR_draws (s : State) (i : RegNum) (v : Word) : (s.writeR i v).draws = s.draws := rfl

/-! ### drawBlock -/

@[simp] theorem State.drawBlock_gpr (s : State) (a : Word) (len : Nat) : (s.drawBlock a len).gpr = s.gpr := rfl
@[simp] theorem State.drawBlock_pc (s : State) (a : Word) (len : Nat) : (s.drawBlock a len).pc = s.pc := rfl
@[simp] theorem State.drawBlock_dreg (s : State) (a : Word) (len : Nat) : (s.drawBlock a len).dreg = s.dreg := rfl
@[simp] theorem State.drawBlock_flagN (s : State) (a : Word) (len : Nat) : (s.drawBlock a len).flagN = s.flagN := rfl
@[simp] theorem State.drawBlock_flagZ (s : State) (a : Word) (len : Nat) : (s.drawBlock a len).flagZ = s.flagZ := rfl
@[simp] theorem State.drawBlock_flagC (s : State) (a : Word) (len : Nat) : (s.drawBlock a len).flagC = s.flagC := rfl
@[simp] theorem State.drawBlock_flagV (s : State) (a : Word) (len : Nat) : (s.drawBlock a len).flagV = s.flagV := rfl
@[simp] theorem State.drawBlock_el (s : State) (a : Word) (len : Nat) : (s.drawBlock a len).el = s.el := rfl
@[simp] theorem State.drawBlock_dit (s : State) (a : Word) (len : Nat) : (s.drawBlock a len).dit = s.dit := rfl
@[simp] theorem State.drawBlock_instrSet (s : State) (a : Word) (len : Nat) : (s.drawBlock a len).instrSet = s.instrSet := rfl
@[simp] theorem State.drawBlock_conds (s : State) (a : Word) (len : Nat) : (s.drawBlock a len).conds = s.conds := rfl
@[simp] theorem State.drawBlock_advSIMDAccess (s : State) (a : Word) (len : Nat) : (s.drawBlock a len).advSIMDAccess = s.advSIMDAccess := rfl
@[simp] theorem State.drawBlock_cpacr (s : State) (a : Word) (len : Nat) : (s.drawBlock a len).cpacr = s.cpacr := rfl
@[simp] theorem State.drawBlock_nsacr (s : State) (a : Word) (len : Nat) : (s.drawBlock a len).nsacr = s.nsacr := rfl
@[simp] theorem State.drawBlock_hcptr (s : State) (a : Word) (len : Nat) : (s.drawBlock a len).hcptr = s.hcptr := rfl
@[simp] theorem State.drawBlock_fpexc (s : State) (a : Word) (len : Nat) : (s.drawBlock a len).fpexc = s.fpexc := rfl
@[simp] theorem State.drawBlock_security (s : State) (a : Word) (len : Nat) : (s.drawBlock a len).security = s.security := rfl
@[simp] theorem State.drawBlock_mode (s : State) (a : Word) (len : Nat) : (s.drawBlock a len).mode = s.mode := rfl
@[simp] theorem State.drawBlock_el3AArch32 (s : State) (a : Word) (len : Nat) : (s.drawBlock a len).el3AArch32 = s.el3AArch32 := rfl
@[simp] theorem State.drawBlock_el2Enabled (s : State) (a : Word) (len : Nat) : (s.drawBlock a len).el2Enabled = s.el2Enabled := rfl
@[simp] theorem State.drawBlock_bigEndianData (s : State) (a : Word) (len : Nat) : (s.drawBlock a len).bigEndianData = s.bigEndianData := rfl
@[simp] theorem State.drawBlock_strictAlign (s : State) (a : Word) (len : Nat) : (s.drawBlock a len).strictAlign = s.strictAlign := rfl
@[simp] theorem State.drawBlock_admitRules (s : State) (a : Word) (len : Nat) : (s.drawBlock a len).admitRules = s.admitRules := rfl
@[simp] theorem State.drawBlock_cuChoice (s : State) (a : Word) (len : Nat) : (s.drawBlock a len).cuChoice = s.cuChoice := rfl
@[simp] theorem State.drawBlock_text (s : State) (a : Word) (len : Nat) : (s.drawBlock a len).text = s.text := rfl
@[simp] theorem State.drawBlock_mem (s : State) (a : Word) (len : Nat) : (s.drawBlock a len).mem = s.mem.writeBytes a (unknownBytes s.draws len) := rfl
@[simp] theorem State.drawBlock_draws (s : State) (a : Word) (len : Nat) : (s.drawBlock a len).draws = s.draws + len := rfl

/-! ### drawR -/

@[simp] theorem State.drawR_dreg (s : State) (i : RegNum) : (s.drawR i).dreg = s.dreg := rfl
@[simp] theorem State.drawR_flagN (s : State) (i : RegNum) : (s.drawR i).flagN = s.flagN := rfl
@[simp] theorem State.drawR_flagZ (s : State) (i : RegNum) : (s.drawR i).flagZ = s.flagZ := rfl
@[simp] theorem State.drawR_flagC (s : State) (i : RegNum) : (s.drawR i).flagC = s.flagC := rfl
@[simp] theorem State.drawR_flagV (s : State) (i : RegNum) : (s.drawR i).flagV = s.flagV := rfl
@[simp] theorem State.drawR_el (s : State) (i : RegNum) : (s.drawR i).el = s.el := rfl
@[simp] theorem State.drawR_dit (s : State) (i : RegNum) : (s.drawR i).dit = s.dit := rfl
@[simp] theorem State.drawR_instrSet (s : State) (i : RegNum) : (s.drawR i).instrSet = s.instrSet := rfl
@[simp] theorem State.drawR_conds (s : State) (i : RegNum) : (s.drawR i).conds = s.conds := rfl
@[simp] theorem State.drawR_advSIMDAccess (s : State) (i : RegNum) : (s.drawR i).advSIMDAccess = s.advSIMDAccess := rfl
@[simp] theorem State.drawR_cpacr (s : State) (i : RegNum) : (s.drawR i).cpacr = s.cpacr := rfl
@[simp] theorem State.drawR_nsacr (s : State) (i : RegNum) : (s.drawR i).nsacr = s.nsacr := rfl
@[simp] theorem State.drawR_hcptr (s : State) (i : RegNum) : (s.drawR i).hcptr = s.hcptr := rfl
@[simp] theorem State.drawR_fpexc (s : State) (i : RegNum) : (s.drawR i).fpexc = s.fpexc := rfl
@[simp] theorem State.drawR_security (s : State) (i : RegNum) : (s.drawR i).security = s.security := rfl
@[simp] theorem State.drawR_mode (s : State) (i : RegNum) : (s.drawR i).mode = s.mode := rfl
@[simp] theorem State.drawR_el3AArch32 (s : State) (i : RegNum) : (s.drawR i).el3AArch32 = s.el3AArch32 := rfl
@[simp] theorem State.drawR_el2Enabled (s : State) (i : RegNum) : (s.drawR i).el2Enabled = s.el2Enabled := rfl
@[simp] theorem State.drawR_bigEndianData (s : State) (i : RegNum) : (s.drawR i).bigEndianData = s.bigEndianData := rfl
@[simp] theorem State.drawR_strictAlign (s : State) (i : RegNum) : (s.drawR i).strictAlign = s.strictAlign := rfl
@[simp] theorem State.drawR_admitRules (s : State) (i : RegNum) : (s.drawR i).admitRules = s.admitRules := rfl
@[simp] theorem State.drawR_cuChoice (s : State) (i : RegNum) : (s.drawR i).cuChoice = s.cuChoice := rfl
@[simp] theorem State.drawR_text (s : State) (i : RegNum) : (s.drawR i).text = s.text := rfl
@[simp] theorem State.drawR_mem (s : State) (i : RegNum) : (s.drawR i).mem = s.mem := rfl
@[simp] theorem State.drawR_draws (s : State) (i : RegNum) : (s.drawR i).draws = s.draws + 1 := rfl

/-! ### Registers -/

/-- `R[15]` is the `pc` (R38). -/
@[simp] theorem State.readR_pc (s : State) : s.readR 15#4 = s.pc := by simp [State.readR]

/-- A register other than `R[15]` stands in the file. -/
theorem State.readR_file (s : State) (i : RegNum) (h : i.toNat < 15) : s.readR i = s.gpr[i.toNat] := by
  simp [State.readR, h]

/-- A register number other than 15 is below 15. -/
theorem RegNum.toNat_lt_of_ne {i : RegNum} (h : i ≠ 15#4) : i.toNat < 15 := by
  have h1 : i.toNat < 16 := i.isLt
  have h2 : i.toNat ≠ 15 := fun e => h (BitVec.eq_of_toNat_eq (by simpa using e))
  omega

/-- States that agree on the file agree on every register but `R[15]`. -/
theorem State.readR_congr {s t : State} (h : t.gpr = s.gpr) {i : RegNum} (hi : i ≠ 15#4) : t.readR i = s.readR i := by
  have := RegNum.toNat_lt_of_ne hi
  simp [State.readR, this, h]

/-- A register reads as what was written to it. -/
theorem State.readR_writeR_same (s : State) (i : RegNum) (v : Word) : (s.writeR i v).readR i = v := by
  by_cases h : i.toNat < 15 <;> simp [State.readR, State.writeR, h]

/-- Writing a register leaves every other one. -/
theorem State.readR_writeR_other (s : State) {i k : RegNum} (v : Word) (h : k ≠ i) (hi : i ≠ 15#4) :
    (s.writeR i v).readR k = s.readR k := by
  have h15 := RegNum.toNat_lt_of_ne hi
  have hne : i.toNat ≠ k.toNat := fun e => h (BitVec.eq_of_toNat_eq e.symm)
  by_cases hk : k.toNat < 15
  · simp [State.readR, State.writeR, h15, hk, hne]
  · simp [State.readR, State.writeR, h15, hk]

/-- Writing a register other than `R[15]` leaves the `pc`. -/
@[simp] theorem State.writeR_pc (s : State) (i : RegNum) (v : Word) (hi : i ≠ 15#4) : (s.writeR i v).pc = s.pc := by
  simp [State.writeR, RegNum.toNat_lt_of_ne hi]

/-- Writing a register other than `R[15]` changes the file only. -/
theorem State.writeR_eq (s : State) (i : RegNum) (v : Word) (hi : i ≠ 15#4) :
    s.writeR i v = { s with gpr := (s.writeR i v).gpr } := by
  simp [State.writeR, RegNum.toNat_lt_of_ne hi]

@[simp] theorem State.readR_setMem (s : State) (m : Memory) (i : RegNum) : (s.setMem m).readR i = s.readR i := rfl

@[simp] theorem State.readR_drawBlock (s : State) (a : Word) (len : Nat) (i : RegNum) :
    (s.drawBlock a len).readR i = s.readR i := rfl

/-- Moving the `pc` leaves every register but `R[15]`. -/
theorem State.readR_setPc (s : State) (v : Word) {i : RegNum} (hi : i ≠ 15#4) : (s.setPc v).readR i = s.readR i :=
  State.readR_congr (by rfl) hi

/-- The `pc` advance leaves every register but `R[15]`. -/
theorem State.readR_advancePc (s : State) {i : RegNum} (hi : i ≠ 15#4) : s.advancePc.readR i = s.readR i :=
  State.readR_congr (by rfl) hi

/-- States that agree on the file agree on every `D` register. -/
theorem State.readD_congr {s t : State} (h : t.dreg = s.dreg) (i : Nat) : t.readD i = s.readD i := by
  simp [State.readD, h]

/-- An existing `D` register stands in the file. -/
theorem State.readD_file (s : State) (i : Nat) (h : i < 32) : s.readD i = s.dreg[i] := by
  simp [State.readD, h]

@[simp] theorem State.advancePc_writeR_same (s : State) (i : RegNum) (v : Word) (hi : i ≠ 15#4) :
    (s.writeR i v).advancePc.readR i = v := by
  rw [State.readR_advancePc _ hi, State.readR_writeR_same]

end Sys2Proof.Machine
end

