-- ==== Sys2Proof/Laws/Ops.lean ====
section
/-!
SUPPORT. Laws/Ops.lean: for each shared operation, what it can do, said once: the memory writes, the UNKNOWN draws, the
writeback, and the cases of the store and of the Operation.
-/

namespace Sys2Proof.Machine

/-! ### Writes of a value -/

@[simp] theorem orderedBytes_length (be : Bool) (n : Nat) (v : BitVec (8 * n)) : (orderedBytes be n v).length = n := by
  simp [orderedBytes]

@[simp] theorem orderedBytes_getElem (be : Bool) (n : Nat) (v : BitVec (8 * n)) (j : Nat)
    (h : j < (orderedBytes be n v).length) : (orderedBytes be n v)[j] = orderedByte be n v j := by
  simp [orderedBytes]

/-- `MemWrite`, every address (R12, R42): byte `j` of the value at distance `j`, all else as before. -/
theorem memWrite_read (be : Bool) (a : Word) (n : Nat) (v : BitVec (8 * n)) (m : Memory) (x : Word) (hn : n < 2 ^ 32) :
    (memWrite be a n v m).read x.toNat =
      if (x - a).toNat < n then some (orderedByte be n v (x - a).toNat) else m.read x.toNat := by
  rw [memWrite, Memory.read_writeBytes _ _ _ _ (by rw [orderedBytes_length]; exact hn)]
  simp only [orderedBytes_length, orderedBytes_getElem]
  split <;> simp_all

/-- `MemWrite` keeps the canonical form. -/
theorem memWrite_wf (be : Bool) (a : Word) (n : Nat) (v : BitVec (8 * n)) (m : Memory) (h : m.wf = true) :
    (memWrite be a n v m).wf = true :=
  Memory.wf_writeBytes _ m a h

/-! ### UNKNOWN draws -/

@[simp] theorem unknownBytes_length (start len : Nat) : (unknownBytes start len).length = len := by
  simp [unknownBytes]

@[simp] theorem unknownBytes_getElem (start len j : Nat) (h : j < (unknownBytes start len).length) :
    (unknownBytes start len)[j] = Config.unknownByte (start + j) := by
  simp [unknownBytes]

/-- A block that becomes UNKNOWN, every address (R121, R147): each byte a draw of its own, all else as before. -/
theorem drawBlock_read (s : State) (a x : Word) (len : Nat) (hn : len < 2 ^ 32) :
    (s.drawBlock a len).mem.read x.toNat =
      if (x - a).toNat < len then some (Config.unknownByte (s.draws + (x - a).toNat)) else s.mem.read x.toNat := by
  rw [State.drawBlock_mem, Memory.read_writeBytes _ _ _ _ (by rw [unknownBytes_length]; exact hn)]
  simp only [unknownBytes_length, unknownBytes_getElem]
  split <;> simp_all

/-! ### The four stores -/

/-- The distance of an address from element `k` of a block. -/
theorem sub_elementAddress (address x : Word) (e k : Nat) (he : 4 * e < 2 ^ 32) (hk : k < 4) :
    (x - elementAddress address e k).toNat < e ↔ k * e ≤ (x - address).toNat ∧ (x - address).toNat < k * e + e := by
  have hke : k * e ≤ 3 * e := Nat.mul_le_mul_right e (by omega)
  have h1 : k * e < 2 ^ 32 := by omega
  have : x - elementAddress address e k = (x - address) - BitVec.ofNat 32 (k * e) := by
    simp only [elementAddress]; bv_omega
  rw [this]
  generalize x - address = y
  generalize hd : k * e = d at *
  constructor <;> intro h <;> bv_omega

/-- The distance itself. -/
theorem sub_elementAddress_toNat (address x : Word) (e k : Nat) (he : 4 * e < 2 ^ 32) (hk : k < 4)
    (h : k * e ≤ (x - address).toNat) : (x - elementAddress address e k).toNat = (x - address).toNat - k * e := by
  have hke : k * e ≤ 3 * e := Nat.mul_le_mul_right e (by omega)
  have h1 : k * e < 2 ^ 32 := by omega
  have : x - elementAddress address e k = (x - address) - BitVec.ofNat 32 (k * e) := by
    simp only [elementAddress]; bv_omega
  rw [this]
  generalize x - address = y at *
  generalize hd : k * e = d at *
  bv_omega

/-- One store, every address (R95). -/
theorem storeElem_read (s : State) (c : DecodeConsts) (address x : Word) (k : Nat) (m : Memory)
    (he : 4 * c.ebytes < 2 ^ 32) :
    (s.storeElem c address k m).read x.toNat =
      if (x - elementAddress address c.ebytes k).toNat < c.ebytes then
        some (orderedByte s.bigEndianData c.ebytes (s.storedElem c k) (x - elementAddress address c.ebytes k).toNat)
      else m.read x.toNat :=
  memWrite_read _ _ _ _ _ _ (by omega)

/-- An address outside the block of `4*ebytes` bytes keeps its byte (R95, R123). -/
theorem storeElems_read_out (s : State) (c : DecodeConsts) (address x : Word) (he : 4 * c.ebytes < 2 ^ 32)
    (hx : 4 * c.ebytes ≤ (x - address).toNat) : (s.storeElems c address).read x.toNat = s.mem.read x.toNat := by
  have h : ∀ k < 4, ¬ (x - elementAddress address c.ebytes k).toNat < c.ebytes := by
    intro k hk hlt
    have h2 := (sub_elementAddress address x c.ebytes k he hk).1 hlt
    have : k * c.ebytes ≤ 3 * c.ebytes := Nat.mul_le_mul_right _ (by omega)
    omega
  simp only [State.storeElems, storeElem_read s c address x _ _ he]
  rw [if_neg (h 3 (by omega)), if_neg (h 2 (by omega)), if_neg (h 1 (by omega)), if_neg (h 0 (by omega))]

/-- The byte at distance `k*ebytes + j` is byte `j` of element `k` (R95). -/
theorem storeElems_read_in (s : State) (c : DecodeConsts) (address : Word) (k j : Nat) (he : 4 * c.ebytes < 2 ^ 32)
    (hk : k < 4) (hj : j < c.ebytes) :
    (s.storeElems c address).read (address + BitVec.ofNat 32 (k * c.ebytes + j)).toNat =
      some (orderedByte s.bigEndianData c.ebytes (s.storedElem c k) j) := by
  have hke : k * c.ebytes ≤ 3 * c.ebytes := Nat.mul_le_mul_right _ (by omega)
  have hd : (address + BitVec.ofNat 32 (k * c.ebytes + j) - address).toNat = k * c.ebytes + j := by
    generalize k * c.ebytes = q at *
    bv_omega
  have hiff : ∀ q < 4, (address + BitVec.ofNat 32 (k * c.ebytes + j) - elementAddress address c.ebytes q).toNat < c.ebytes ↔ q = k := by
    intro q hq
    rw [sub_elementAddress _ _ _ _ he hq, hd]
    constructor
    · rintro ⟨h1, h2⟩
      by_contra hne
      rcases Nat.lt_or_gt_of_ne hne with hlt | hgt
      · have : (q + 1) * c.ebytes ≤ k * c.ebytes := Nat.mul_le_mul_right _ hlt
        rw [Nat.add_mul, Nat.one_mul] at this
        omega
      · have : (k + 1) * c.ebytes ≤ q * c.ebytes := Nat.mul_le_mul_right _ hgt
        rw [Nat.add_mul, Nat.one_mul] at this
        omega
    · rintro rfl
      omega
  have hval : (address + BitVec.ofNat 32 (k * c.ebytes + j) - elementAddress address c.ebytes k).toNat = j := by
    rw [sub_elementAddress_toNat _ _ _ _ he hk (by omega), hd]
    omega
  simp only [State.storeElems, storeElem_read s c address _ _ _ he, hiff 0 (by omega), hiff 1 (by omega),
    hiff 2 (by omega), hiff 3 (by omega)]
  interval_cases k <;> simp_all

/-- A byte of a lane of a register (R11, R95). -/
theorem orderedByte_storedElem (s : State) (c : DecodeConsts) (be : Bool) (k j : Nat) (hj : j < c.ebytes) :
    orderedByte be c.ebytes (s.storedElem c k) j =
      (s.readD (c.d + k * c.inc)).extractLsb' ((c.index * c.ebytes + (if be then c.ebytes - 1 - j else j)) * 8) 8 := by
  have hlt : (if be then c.ebytes - 1 - j else j) < c.ebytes := by split <;> omega
  simp only [orderedByte, State.storedElem, elem, DecodeConsts.listReg]
  generalize (if be then c.ebytes - 1 - j else j) = q at hlt ⊢
  refine BitVec.eq_of_getLsbD_eq fun i hi => ?_
  have h1 : 8 * q + i < 8 * c.ebytes := by omega
  have h2 : c.index * (8 * c.ebytes) = c.index * c.ebytes * 8 := by ring
  have h3 : (c.index * c.ebytes + q) * 8 = c.index * c.ebytes * 8 + q * 8 := by ring
  simp only [BitVec.getLsbD_extractLsb', h1, h2, h3, decide_true, Bool.true_and]
  congr 2
  omega

/-- The four stores keep the canonical form. -/
theorem storeElems_wf (s : State) (c : DecodeConsts) (address : Word) (h : s.mem.wf = true) :
    (s.storeElems c address).wf = true :=
  memWrite_wf _ _ _ _ _ (memWrite_wf _ _ _ _ _ (memWrite_wf _ _ _ _ _ (memWrite_wf _ _ _ _ _ h)))

/-! ### Writeback and completion -/

/-- Writeback to a base register that is not 15 (R96). -/
theorem writeback_readR_base (s : State) (c : DecodeConsts) :
    (s.writeback c).readR c.n = if c.wback then s.readR c.n + s.increment c else s.readR c.n := by
  unfold State.writeback
  split
  · exact State.readR_writeR_same _ _ _
  · rfl

/-- Writeback leaves every other register (R96, R123). -/
theorem writeback_readR_other (s : State) (c : DecodeConsts) (hn : c.n ≠ 15#4) {i : RegNum} (hi : i ≠ c.n) :
    (s.writeback c).readR i = s.readR i := by
  unfold State.writeback
  split
  · exact State.readR_writeR_other _ _ hi hn
  · rfl

/-- Writeback changes the register file only (R96). -/
theorem writeback_eq (s : State) (c : DecodeConsts) (hn : c.n ≠ 15#4) :
    s.writeback c = { s with gpr := (s.writeback c).gpr } := by
  unfold State.writeback
  split
  · exact State.writeR_eq s c.n _ hn
  · rfl

/-- A completed store changes the memory, the register file and the `pc`, nothing else (R123). -/
theorem complete_eq (s : State) (c : DecodeConsts) (address : Word) (hn : c.n ≠ 15#4) :
    s.complete c address =
      { s with gpr := (s.complete c address).gpr, pc := s.pc + 4#32, mem := s.storeElems c address } := by
  unfold State.complete
  rw [writeback_eq _ c hn]
  rfl

/-- The memory after a completed store. -/
theorem complete_mem (s : State) (c : DecodeConsts) (address : Word) :
    (s.complete c address).mem = s.storeElems c address := by
  unfold State.complete State.writeback
  split <;> rfl

/-- The `pc` after a completed store. -/
theorem complete_pc (s : State) (c : DecodeConsts) (address : Word) (hn : c.n ≠ 15#4) :
    (s.complete c address).pc = s.pc + 4#32 := by
  rw [complete_eq s c address hn]

/-! ### The cases of the shared operations -/

/-- Everything step (7) can answer (R91, R146). -/
theorem storeStructure_cases (c : DecodeConsts) (address : Word) (s : State) :
    (s.strictAlign = true ∧ isAligned address c.ebytes = false ∧
      storeStructure c address s = .fault (.alignmentFault (s.alignmentRecord address) s)) ∨
    (s.overlapsText address c.transferBytes = true ∧ storeStructure c address s = .refused (.storeOverlapsText address)) ∨
    (s.overlapsText address c.transferBytes = false ∧ ∃ a, s.firstRefused address c.ebytes = some a ∧
      storeStructure c address s = .fault (.dataAbort a (s.drawBlock address c.transferBytes))) ∨
    ((s.strictAlign = true → isAligned address c.ebytes = true) ∧ s.overlapsText address c.transferBytes = false ∧
      s.firstRefused address c.ebytes = none ∧ storeStructure c address s = .next (s.complete c address)) := by
  unfold storeStructure raise
  cases s.strictAlign <;> cases isAligned address c.ebytes <;> cases s.overlapsText address c.transferBytes <;>
    cases s.firstRefused address c.ebytes <;> simp

/-- The store step completes when nothing stops it. -/
theorem storeStructure_next (c : DecodeConsts) (address : Word) (s : State)
    (ha : s.strictAlign = true → isAligned address c.ebytes = true) (ho : s.overlapsText address c.transferBytes = false)
    (hf : s.firstRefused address c.ebytes = none) : storeStructure c address s = .next (s.complete c address) := by
  unfold storeStructure
  cases h : s.strictAlign <;> simp_all

/-- No element is refused exactly when all four are admitted (R48). -/
theorem firstRefused_none (s : State) (address : Word) (e : Nat) :
    s.firstRefused address e = none ↔ ∀ k < 4, s.elementAdmitted address e k = true := by
  simp only [State.firstRefused, Option.map_eq_none_iff, List.find?_eq_none]
  constructor
  · intro h k hk
    have := h k (by interval_cases k <;> simp)
    simpa using this
  · intro h k hk
    have : k < 4 := by simp at hk; omega
    simp [h k this]

/-- The refused element: `MemAdmit` refuses it and admits the ones before it (R145). -/
theorem firstRefused_some (s : State) (address : Word) (e : Nat) (a : Word) (h : s.firstRefused address e = some a) :
    ∃ k < 4, a = elementAddress address e k ∧ s.elementAdmitted address e k = false ∧
      ∀ q < k, s.elementAdmitted address e q = true := by
  simp only [State.firstRefused, Option.map_eq_some_iff] at h
  obtain ⟨k, hf, rfl⟩ := h
  refine ⟨k, ?_, rfl, ?_, ?_⟩ <;>
  · simp only [List.find?] at hf
    cases h0 : s.elementAdmitted address e 0 <;> cases h1 : s.elementAdmitted address e 1 <;>
      cases h2 : s.elementAdmitted address e 2 <;> cases h3 : s.elementAdmitted address e 3 <;>
      simp_all <;> subst k <;> (try simp_all) <;> intro q hq <;> interval_cases q <;> simp_all

/-- No byte of a block is program text exactly when none reads as listed (R56). -/
theorem overlapsText_false (s : State) (address : Word) (len : Nat) :
    s.overlapsText address len = false ↔ ∀ j < len, s.text.read (address + BitVec.ofNat 32 j).toNat = none := by
  simp [State.overlapsText]

/-- Everything a register list past `D31` can answer (R121). -/
theorem listPastEnd_cases (c : DecodeConsts) (s : State) :
    (s.cuChoice = .refuse ∧ listPastEnd c s = .refused .listPastD31) ∨
    (s.cuChoice = .undefined ∧ listPastEnd c s = .fault (.undefined s)) ∨
    (s.cuChoice = .nop ∧ listPastEnd c s = .next s.advancePc) ∨
    (s.cuChoice = .unknown ∧ s.overlapsText (s.readR c.n) c.transferBytes = true ∧
      listPastEnd c s = .refused (.storeOverlapsText (s.readR c.n))) ∨
    (s.cuChoice = .unknown ∧ s.overlapsText (s.readR c.n) c.transferBytes = false ∧
      listPastEnd c s = .next (s.drawUnknown c).advancePc) := by
  unfold listPastEnd raise
  cases s.cuChoice <;> cases s.overlapsText (s.readR c.n) c.transferBytes <;> simp

/-- Everything the Operation can answer (R91): which step stops it, and with what. -/
theorem vst4_cases (cond : BitVec 4) (c : DecodeConsts) (s : State) :
    (c.n = 15#4 ∧ vst4 cond c s = .refused .baseIsR15) ∨
    (c.n ≠ 15#4 ∧ 31 < c.d4 ∧ vst4 cond c s = listPastEnd c s) ∨
    (c.n ≠ 15#4 ∧ c.d4 ≤ 31 ∧ s.conditionPassed cond = false ∧ vst4 cond c s = .next s.advancePc) ∨
    (c.n ≠ 15#4 ∧ c.d4 ≤ 31 ∧ s.conditionPassed cond = true ∧ s.advSIMDAccess = .undefined ∧
      vst4 cond c s = .fault (.undefined s)) ∨
    (c.n ≠ 15#4 ∧ c.d4 ≤ 31 ∧ s.conditionPassed cond = true ∧ s.advSIMDAccess = .hypTrap ∧
      vst4 cond c s = .fault (.hypTrap s)) ∨
    (c.n ≠ 15#4 ∧ c.d4 ≤ 31 ∧ s.conditionPassed cond = true ∧ s.advSIMDAccess = .enabled ∧
      isAligned (s.readR c.n) c.alignment = false ∧
      vst4 cond c s = .fault (.alignmentFault (s.alignmentRecord (s.readR c.n)) s)) ∨
    (c.n ≠ 15#4 ∧ c.d4 ≤ 31 ∧ s.conditionPassed cond = true ∧ s.advSIMDAccess = .enabled ∧
      isAligned (s.readR c.n) c.alignment = true ∧ vst4 cond c s = storeStructure c (s.readR c.n) s) := by
  unfold vst4 checkedStore alignedStore raise
  by_cases h1 : c.n = 15#4 <;> by_cases h2 : 31 < c.d4 <;> cases h3 : s.conditionPassed cond <;>
    cases h4 : s.advSIMDAccess <;> cases h5 : isAligned (s.readR c.n) c.alignment <;> simp_all

end Sys2Proof.Machine
end

