-- ==== Sys2Proof/Laws/Exec.lean ====
section
/-!
SUPPORT. Laws/Exec.lean: `exec` in terms of the shared Operation: an instruction with decode constants runs it, one without is
UNDEFINED. And the Boolean tests of the Operation in the terms of Safety.lean.
-/

namespace Sys2Proof.Machine

/-- A store instruction runs the shared Operation under its condition and its decode constants (R90). -/
theorem exec_of_consts {i : Instr} {c : DecodeConsts} (s : State) (h : consts? i = some c) :
    exec i s = vst4 (condOf i s) c s := by
  cases i <;> simp only [consts?, Option.some.injEq, reduceCtorEq] at h <;> subst h <;> rfl

/-- An UNDEFINED pattern faults (R141). -/
theorem exec_of_no_consts {i : Instr} (s : State) (h : consts? i = none) : exec i s = .fault (.undefined s) := by
  cases i <;> simp only [consts?, reduceCtorEq] at h <;> rfl

/-- The element size is 1, 2 or 4 (R15). -/
theorem consts_ebytes {i : Instr} {c : DecodeConsts} (h : consts? i = some c) :
    c.ebytes = 1 ∨ c.ebytes = 2 ∨ c.ebytes = 4 := by
  cases i <;> simp only [consts?, Option.some.injEq, reduceCtorEq] at h <;> subst h <;>
    simp [constsSize8, constsSize16, constsSize32]

/-- `inc` of a spacing (R67, R68). -/
theorem incOf_cases (sp : Spacing) : incOf sp = 1 ∨ incOf sp = 2 := by cases sp <;> simp [incOf]

/-- The spacing is 1 or 2 (R15). -/
theorem consts_inc {i : Instr} {c : DecodeConsts} (h : consts? i = some c) : c.inc = 1 ∨ c.inc = 2 := by
  cases i <;> simp only [consts?, Option.some.injEq, reduceCtorEq] at h <;> subst h <;>
    simp [constsSize8, constsSize16, constsSize32, incOf_cases]

/-- `isAligned` says that the remainder is 0 (R12). -/
theorem isAligned_eq_true (a : Word) (k : Nat) : isAligned a k = true ↔ a.toNat % k = 0 := by
  simp [isAligned]

/-- `isAligned` fails when the remainder is not 0. -/
theorem isAligned_eq_false (a : Word) (k : Nat) : isAligned a k = false ↔ a.toNat % k ≠ 0 := by
  simp [isAligned]

/-- Admission of element `k` in terms of `MemAdmit` (R48). -/
theorem elementAdmitted_iff (s : State) (address : Word) (e k : Nat) :
    s.elementAdmitted address e k = true ↔
      memAdmit s.admitRules (address + BitVec.ofNat 32 (k * e)) e (decide (s.el ≠ .el0)) true = .ok := by
  have : s.privileged = decide (s.el ≠ .el0) := by cases h : s.el <;> simp [State.privileged, h]
  simp [State.elementAdmitted, State.accessDesc, elementAddress, this]

/-- A ready store passes every test of the Operation. -/
theorem vst4_of_ready {cond : BitVec 4} {c : DecodeConsts} {s : State} (h : StoreReady c s)
    (hc : s.conditionPassed cond = true) : vst4 cond c s = .next (s.complete c (s.readR c.n)) := by
  have h1 : isAligned (s.readR c.n) c.alignment = true := (isAligned_eq_true _ _).2 h.aligned
  have h2 : ¬ 31 < c.d4 := by simp only [DecodeConsts.d4, DecodeConsts.listReg]; have := h.list; omega
  have h3 := storeStructure_next c (s.readR c.n) s (fun hs => (isAligned_eq_true _ _).2 (h.elementAligned hs))
    ((overlapsText_false _ _ _).2 h.apart) ((firstRefused_none _ _ _).2 fun k hk => (elementAdmitted_iff _ _ _ _).2 (h.admitted k hk))
  simp [vst4, checkedStore, alignedStore, h.base, h2, hc, h.enabled, h1, h3]

/-- Two next answers are one exactly when their states are. -/
theorem next_eq_next (s t : State) : (Host.Outcome.next s : Result) = .next t ↔ t = s :=
  ⟨fun e => by injection e with e; exact e.symm, fun e => by rw [e]⟩

/-- When the store step completes (R91 step 7). -/
theorem storeStructure_next_iff (c : DecodeConsts) (address : Word) (s t : State) :
    storeStructure c address s = .next t ↔ (s.strictAlign = true → isAligned address c.ebytes = true) ∧
      s.overlapsText address c.transferBytes = false ∧ s.firstRefused address c.ebytes = none ∧ t = s.complete c address := by
  constructor
  · intro h
    rcases storeStructure_cases c address s with ⟨_, _, h'⟩ | ⟨_, h'⟩ | ⟨_, a, _, h'⟩ | ⟨h1, h2, h3, h'⟩ <;> rw [h'] at h
    · cases h
    · cases h
    · cases h
    · exact ⟨h1, h2, h3, (next_eq_next _ _).1 h⟩
  · rintro ⟨h1, h2, h3, rfl⟩
    exact storeStructure_next c address s h1 h2 h3

/-- The four ways a store instruction reaches a next state (R91): a list past `D31` under `Nop` or under `Unknown`, a condition that
fails, a completed store. -/
theorem exec_next_iff {i : Instr} {c : DecodeConsts} (s t : State) (h : consts? i = some c) :
    exec i s = .next t ↔ c.n ≠ 15#4 ∧
      ((31 < c.d4 ∧ s.cuChoice = .nop ∧ t = s.advancePc) ∨
       (31 < c.d4 ∧ s.cuChoice = .unknown ∧ s.overlapsText (s.readR c.n) c.transferBytes = false ∧ t = (s.drawUnknown c).advancePc) ∨
       (c.d4 ≤ 31 ∧ s.conditionPassed (condOf i s) = false ∧ t = s.advancePc) ∨
       (c.d4 ≤ 31 ∧ s.conditionPassed (condOf i s) = true ∧ s.advSIMDAccess = .enabled ∧
        isAligned (s.readR c.n) c.alignment = true ∧ (s.strictAlign = true → isAligned (s.readR c.n) c.ebytes = true) ∧
        s.overlapsText (s.readR c.n) c.transferBytes = false ∧ s.firstRefused (s.readR c.n) c.ebytes = none ∧
        t = s.complete c (s.readR c.n))) := by
  rw [exec_of_consts s h]
  constructor
  · intro hx
    rcases vst4_cases (condOf i s) c s with ⟨_, h'⟩ | ⟨hn, hd, h'⟩ | ⟨hn, hd, hc, h'⟩ | ⟨_, _, _, _, h'⟩ | ⟨_, _, _, _, h'⟩ |
        ⟨_, _, _, _, _, h'⟩ | ⟨hn, hd, hc, he, ha, h'⟩ <;> rw [h'] at hx <;> refine ⟨?_, ?_⟩ <;> first | exact hn | cases hx | skip
    · rcases listPastEnd_cases c s with ⟨_, h''⟩ | ⟨_, h''⟩ | ⟨hu, h''⟩ | ⟨_, _, h''⟩ | ⟨hu, ho, h''⟩ <;> rw [h''] at hx
      · cases hx
      · cases hx
      · exact .inl ⟨hd, hu, (next_eq_next _ _).1 hx⟩
      · cases hx
      · exact .inr (.inl ⟨hd, hu, ho, (next_eq_next _ _).1 hx⟩)
    · exact .inr (.inr (.inl ⟨hd, hc, rfl⟩))
    · obtain ⟨h1, h2, h3, h4⟩ := (storeStructure_next_iff _ _ _ _).1 hx
      exact .inr (.inr (.inr ⟨hd, hc, he, ha, h1, h2, h3, h4⟩))
  · rintro ⟨hn, ⟨hd, hu, rfl⟩ | ⟨hd, hu, ho, rfl⟩ | ⟨hd, hc, rfl⟩ | ⟨hd, hc, he, ha, h1, h2, h3, rfl⟩⟩
    · simp [vst4, hn, hd, listPastEnd, hu]
    · simp [vst4, hn, hd, listPastEnd, hu, ho]
    · simp [vst4, hn, Nat.not_lt.2 hd, hc]
    · simp only [vst4, beq_iff_eq, hn, if_false, Nat.not_lt.2 hd, hc, if_true, checkedStore, he, alignedStore, ha]
      exact storeStructure_next c _ s h1 h2 h3

/-- Two states in which every test of the Operation answers the same, and whose updates correspond under `g`, have corresponding
outcomes. -/
structure Corresponds (g : State → State) (c : DecodeConsts) (s s' : State) : Prop where
  start : s' = g s
  base : s'.readR c.n = s.readR c.n
  enable : s'.advSIMDAccess = s.advSIMDAccess
  choice : s'.cuChoice = s.cuChoice
  strict : s'.strictAlign = s.strictAlign
  text : s'.text = s.text
  refused : s'.firstRefused (s.readR c.n) c.ebytes = s.firstRefused (s.readR c.n) c.ebytes
  record : s'.privileged = s.privileged
  advance : s'.advancePc = g s.advancePc
  block : s'.drawBlock (s.readR c.n) c.transferBytes = g (s.drawBlock (s.readR c.n) c.transferBytes)
  unknown : c.n ≠ 15#4 → (s'.drawUnknown c).advancePc = g (s.drawUnknown c).advancePc
  complete : c.n ≠ 15#4 → s'.complete c (s.readR c.n) = g (s.complete c (s.readR c.n))

/-- Corresponding states have corresponding outcomes of the store step. -/
theorem storeStructure_corresponds {g : State → State} {c : DecodeConsts} {s s' : State} (h : Corresponds g c s s') (hn : c.n ≠ 15#4) :
    storeStructure c (s.readR c.n) s' = mapResult g (storeStructure c (s.readR c.n) s) := by
  have ho : s'.overlapsText (s.readR c.n) c.transferBytes = s.overlapsText (s.readR c.n) c.transferBytes := by
    unfold State.overlapsText; rw [h.text]
  have hr : s'.alignmentRecord (s.readR c.n) = s.alignmentRecord (s.readR c.n) := by
    unfold State.alignmentRecord State.accessDesc; rw [h.record]
  unfold storeStructure raise
  rw [h.strict, ho, h.refused, hr]
  split
  · simp only [mapResult, Fault.mapLeft, ← h.start]
  · split
    · rfl
    · split
      · simp only [mapResult, Fault.mapLeft, h.block]
      · simp only [mapResult, h.complete hn]

/-- Corresponding states have corresponding outcomes for a list past `D31`. -/
theorem listPastEnd_corresponds {g : State → State} {c : DecodeConsts} {s s' : State} (h : Corresponds g c s s') (hn : c.n ≠ 15#4) :
    listPastEnd c s' = mapResult g (listPastEnd c s) := by
  have ho : s'.overlapsText (s.readR c.n) c.transferBytes = s.overlapsText (s.readR c.n) c.transferBytes := by
    unfold State.overlapsText; rw [h.text]
  unfold listPastEnd raise
  rw [h.choice, h.base, ho]
  cases s.cuChoice <;> simp only [mapResult, Fault.mapLeft, ← h.start, h.advance]
  split
  · rfl
  · simp only [h.unknown hn]

/-- Corresponding states in which the condition answers the same have corresponding outcomes of the Operation. -/
theorem vst4_corresponds {g : State → State} {c : DecodeConsts} {s s' : State} (h : Corresponds g c s s') {cond cond' : BitVec 4}
    (hc : s'.conditionPassed cond' = s.conditionPassed cond) : vst4 cond' c s' = mapResult g (vst4 cond c s) := by
  unfold vst4
  rw [hc]
  split
  · rfl
  · rename_i hn
    have hn : c.n ≠ 15#4 := by simpa using hn
    split
    · exact listPastEnd_corresponds h hn
    · split
      · have hr : s'.alignmentRecord (s.readR c.n) = s.alignmentRecord (s.readR c.n) := by
          unfold State.alignmentRecord State.accessDesc; rw [h.record]
        unfold checkedStore alignedStore raise
        rw [h.enable, h.base, hr]
        cases s.advSIMDAccess
        · simp only
          split
          · exact storeStructure_corresponds h hn
          · simp only [mapResult, Fault.mapLeft, ← h.start]
        · simp only [mapResult, Fault.mapLeft, ← h.start]
        · simp only [mapResult, Fault.mapLeft, ← h.start]
      · simp only [mapResult, h.advance]

end Sys2Proof.Machine
end

