-- ==== Sys2Proof/Laws/PerInstr.lean ====
section
/-!
SUPPORT. Laws/PerInstr.lean: laws made per instruction. `EncodeInRow`: the word of an instruction has the fixed bits that its
row of spec/opcode_table.json gives (`match` under `mask`), written here from the table.
-/

namespace Sys2Proof.Laws

/-- The row's `mask` and `match` in spec/opcode_table.json. -/
def tableRow : Instr → Word × Word
  | .a1Offset .. => (0xFFB00F0F#32, 0xF480030F#32)
  | .a1PostImm .. => (0xFFB00F0F#32, 0xF480030D#32)
  | .a1PostReg .. => (0xFFB00F00#32, 0xF4800300#32)
  | .a2Offset .. => (0xFFB00F0F#32, 0xF480070F#32)
  | .a2PostImm .. => (0xFFB00F0F#32, 0xF480070D#32)
  | .a2PostReg .. => (0xFFB00F00#32, 0xF4800700#32)
  | .a3Offset .. => (0xFFB00F0F#32, 0xF4800B0F#32)
  | .a3PostImm .. => (0xFFB00F0F#32, 0xF4800B0D#32)
  | .a3PostReg .. => (0xFFB00F00#32, 0xF4800B00#32)
  | .t1Offset .. => (0xFFB00F0F#32, 0xF980030F#32)
  | .t1PostImm .. => (0xFFB00F0F#32, 0xF980030D#32)
  | .t1PostReg .. => (0xFFB00F00#32, 0xF9800300#32)
  | .t2Offset .. => (0xFFB00F0F#32, 0xF980070F#32)
  | .t2PostImm .. => (0xFFB00F0F#32, 0xF980070D#32)
  | .t2PostReg .. => (0xFFB00F00#32, 0xF9800700#32)
  | .t3Offset .. => (0xFFB00F0F#32, 0xF9800B0F#32)
  | .t3PostImm .. => (0xFFB00F0F#32, 0xF9800B0D#32)
  | .t3PostReg .. => (0xFFB00F00#32, 0xF9800B00#32)
  | .undefSizeA32 .. => (0xFFB00F00#32, 0xF4800F00#32)
  | .undefAlignA32 .. => (0xFFB00F30#32, 0xF4800B30#32)
  | .undefSizeT32 .. => (0xFFB00F00#32, 0xF9800F00#32)
  | .undefAlignT32 .. => (0xFFB00F30#32, 0xF9800B30#32)

/-- The word of an instruction lies in its row. -/
def EncodeInRow.Statement (i : Instr) : Prop := encode i &&& (tableRow i).1 = (tableRow i).2

/-- Under the mask of a Post-indexed (register) or R71 (a) row, a word shows its `size` only. -/
theorem packFields_sizeMask (set : InstrSet) (f : Fields) :
    packFields set f &&& 0xFFB00F00#32 = spaceMatch set ||| f.size.setWidth 32 <<< 10 := by
  cases set <;>
  · refine BitVec.eq_of_getLsbD_eq fun i hi => ?_
    simp only [packFields, spaceMatch, BitVec.getLsbD_and, BitVec.getLsbD_or, BitVec.getLsbD_shiftLeft,
      BitVec.getLsbD_setWidth]
    interval_cases i <;> simp

/-- Under the mask of an Offset or Post-indexed (immediate) row, a word shows its `size` and its `Rm`. -/
theorem packFields_sizeRmMask (set : InstrSet) (f : Fields) :
    packFields set f &&& 0xFFB00F0F#32 = spaceMatch set ||| f.size.setWidth 32 <<< 10 ||| f.rm.setWidth 32 := by
  cases set <;>
  · refine BitVec.eq_of_getLsbD_eq fun i hi => ?_
    simp only [packFields, spaceMatch, BitVec.getLsbD_and, BitVec.getLsbD_or, BitVec.getLsbD_shiftLeft,
      BitVec.getLsbD_setWidth]
    interval_cases i <;> simp

/-- Under the mask of an R71 (b) row, a word shows its `size` and `index_align<1:0>`. -/
theorem packFields_sizeAlignMask (set : InstrSet) (f : Fields) :
    packFields set f &&& 0xFFB00F30#32 =
      spaceMatch set ||| f.size.setWidth 32 <<< 10 ||| (f.indexAlign.extractLsb' 0 2).setWidth 32 <<< 4 := by
  cases set <;>
  · refine BitVec.eq_of_getLsbD_eq fun i hi => ?_
    simp only [packFields, spaceMatch, BitVec.getLsbD_and, BitVec.getLsbD_or, BitVec.getLsbD_shiftLeft,
      BitVec.getLsbD_setWidth, BitVec.getLsbD_extractLsb']
    interval_cases i <;> simp

/-- The low two bits of `index_align` in the UNDEFINED pattern R71 (b). -/
theorem undefAlign_low (d : BitVec 5) (n : RegNum) (ia : BitVec 2) (m : RegNum) :
    (fieldsUndefAlign d n ia m).indexAlign.extractLsb' 0 2 = 3#2 := by
  simp only [fieldsUndefAlign]; revert ia; decide

theorem EncodeInRow.a1Offset (d : BitVec 5) (n : RegNum) (i : BitVec 3) (al : Bool) :
    EncodeInRow.Statement (.a1Offset d n i al) :=
  (packFields_sizeRmMask _ _).trans (by simp [fieldsOf, fieldsSize8, Instr.instrSet, spaceMatch, tableRow])

theorem EncodeInRow.a1PostImm (d : BitVec 5) (n : RegNum) (i : BitVec 3) (al : Bool) :
    EncodeInRow.Statement (.a1PostImm d n i al) :=
  (packFields_sizeRmMask _ _).trans (by simp [fieldsOf, fieldsSize8, Instr.instrSet, spaceMatch, tableRow])

theorem EncodeInRow.a1PostReg (d : BitVec 5) (n : RegNum) (i : BitVec 3) (al : Bool) (m : RegNum) :
    EncodeInRow.Statement (.a1PostReg d n i al m) :=
  (packFields_sizeMask _ _).trans (by simp [fieldsOf, fieldsSize8, Instr.instrSet, spaceMatch, tableRow])

theorem EncodeInRow.a2Offset (d : BitVec 5) (n : RegNum) (i : BitVec 2) (sp : Spacing) (al : Bool) :
    EncodeInRow.Statement (.a2Offset d n i sp al) :=
  (packFields_sizeRmMask _ _).trans (by simp [fieldsOf, fieldsSize16, Instr.instrSet, spaceMatch, tableRow])

theorem EncodeInRow.a2PostImm (d : BitVec 5) (n : RegNum) (i : BitVec 2) (sp : Spacing) (al : Bool) :
    EncodeInRow.Statement (.a2PostImm d n i sp al) :=
  (packFields_sizeRmMask _ _).trans (by simp [fieldsOf, fieldsSize16, Instr.instrSet, spaceMatch, tableRow])

theorem EncodeInRow.a2PostReg (d : BitVec 5) (n : RegNum) (i : BitVec 2) (sp : Spacing) (al : Bool) (m : RegNum) :
    EncodeInRow.Statement (.a2PostReg d n i sp al m) :=
  (packFields_sizeMask _ _).trans (by simp [fieldsOf, fieldsSize16, Instr.instrSet, spaceMatch, tableRow])

theorem EncodeInRow.a3Offset (d : BitVec 5) (n : RegNum) (i : BitVec 1) (sp : Spacing) (al : Align32) :
    EncodeInRow.Statement (.a3Offset d n i sp al) :=
  (packFields_sizeRmMask _ _).trans (by simp [fieldsOf, fieldsSize32, Instr.instrSet, spaceMatch, tableRow])

theorem EncodeInRow.a3PostImm (d : BitVec 5) (n : RegNum) (i : BitVec 1) (sp : Spacing) (al : Align32) :
    EncodeInRow.Statement (.a3PostImm d n i sp al) :=
  (packFields_sizeRmMask _ _).trans (by simp [fieldsOf, fieldsSize32, Instr.instrSet, spaceMatch, tableRow])

theorem EncodeInRow.a3PostReg (d : BitVec 5) (n : RegNum) (i : BitVec 1) (sp : Spacing) (al : Align32) (m : RegNum) :
    EncodeInRow.Statement (.a3PostReg d n i sp al m) :=
  (packFields_sizeMask _ _).trans (by simp [fieldsOf, fieldsSize32, Instr.instrSet, spaceMatch, tableRow])

theorem EncodeInRow.t1Offset (d : BitVec 5) (n : RegNum) (i : BitVec 3) (al : Bool) :
    EncodeInRow.Statement (.t1Offset d n i al) :=
  (packFields_sizeRmMask _ _).trans (by simp [fieldsOf, fieldsSize8, Instr.instrSet, spaceMatch, tableRow])

theorem EncodeInRow.t1PostImm (d : BitVec 5) (n : RegNum) (i : BitVec 3) (al : Bool) :
    EncodeInRow.Statement (.t1PostImm d n i al) :=
  (packFields_sizeRmMask _ _).trans (by simp [fieldsOf, fieldsSize8, Instr.instrSet, spaceMatch, tableRow])

theorem EncodeInRow.t1PostReg (d : BitVec 5) (n : RegNum) (i : BitVec 3) (al : Bool) (m : RegNum) :
    EncodeInRow.Statement (.t1PostReg d n i al m) :=
  (packFields_sizeMask _ _).trans (by simp [fieldsOf, fieldsSize8, Instr.instrSet, spaceMatch, tableRow])

theorem EncodeInRow.t2Offset (d : BitVec 5) (n : RegNum) (i : BitVec 2) (sp : Spacing) (al : Bool) :
    EncodeInRow.Statement (.t2Offset d n i sp al) :=
  (packFields_sizeRmMask _ _).trans (by simp [fieldsOf, fieldsSize16, Instr.instrSet, spaceMatch, tableRow])

theorem EncodeInRow.t2PostImm (d : BitVec 5) (n : RegNum) (i : BitVec 2) (sp : Spacing) (al : Bool) :
    EncodeInRow.Statement (.t2PostImm d n i sp al) :=
  (packFields_sizeRmMask _ _).trans (by simp [fieldsOf, fieldsSize16, Instr.instrSet, spaceMatch, tableRow])

theorem EncodeInRow.t2PostReg (d : BitVec 5) (n : RegNum) (i : BitVec 2) (sp : Spacing) (al : Bool) (m : RegNum) :
    EncodeInRow.Statement (.t2PostReg d n i sp al m) :=
  (packFields_sizeMask _ _).trans (by simp [fieldsOf, fieldsSize16, Instr.instrSet, spaceMatch, tableRow])

theorem EncodeInRow.t3Offset (d : BitVec 5) (n : RegNum) (i : BitVec 1) (sp : Spacing) (al : Align32) :
    EncodeInRow.Statement (.t3Offset d n i sp al) :=
  (packFields_sizeRmMask _ _).trans (by simp [fieldsOf, fieldsSize32, Instr.instrSet, spaceMatch, tableRow])

theorem EncodeInRow.t3PostImm (d : BitVec 5) (n : RegNum) (i : BitVec 1) (sp : Spacing) (al : Align32) :
    EncodeInRow.Statement (.t3PostImm d n i sp al) :=
  (packFields_sizeRmMask _ _).trans (by simp [fieldsOf, fieldsSize32, Instr.instrSet, spaceMatch, tableRow])

theorem EncodeInRow.t3PostReg (d : BitVec 5) (n : RegNum) (i : BitVec 1) (sp : Spacing) (al : Align32) (m : RegNum) :
    EncodeInRow.Statement (.t3PostReg d n i sp al m) :=
  (packFields_sizeMask _ _).trans (by simp [fieldsOf, fieldsSize32, Instr.instrSet, spaceMatch, tableRow])

theorem EncodeInRow.undefSizeA32 (d : BitVec 5) (n : RegNum) (ia : BitVec 4) (m : RegNum) :
    EncodeInRow.Statement (.undefSizeA32 d n ia m) :=
  (packFields_sizeMask _ _).trans (by simp [fieldsOf, fieldsUndefSize, Instr.instrSet, spaceMatch, tableRow])

theorem EncodeInRow.undefAlignA32 (d : BitVec 5) (n : RegNum) (ia : BitVec 2) (m : RegNum) :
    EncodeInRow.Statement (.undefAlignA32 d n ia m) :=
  (packFields_sizeAlignMask _ _).trans (by rw [fieldsOf, undefAlign_low]; simp [fieldsUndefAlign, Instr.instrSet, spaceMatch, tableRow])

theorem EncodeInRow.undefSizeT32 (d : BitVec 5) (n : RegNum) (ia : BitVec 4) (m : RegNum) :
    EncodeInRow.Statement (.undefSizeT32 d n ia m) :=
  (packFields_sizeMask _ _).trans (by simp [fieldsOf, fieldsUndefSize, Instr.instrSet, spaceMatch, tableRow])

theorem EncodeInRow.undefAlignT32 (d : BitVec 5) (n : RegNum) (ia : BitVec 2) (m : RegNum) :
    EncodeInRow.Statement (.undefAlignT32 d n ia m) :=
  (packFields_sizeAlignMask _ _).trans (by rw [fieldsOf, undefAlign_low]; simp [fieldsUndefAlign, Instr.instrSet, spaceMatch, tableRow])

end Sys2Proof.Laws
end

