-- ==== Sys2Proof/Tests/Slice0.lean ====
section
/-!
SUPPORT. Tests/Slice0.lean: expected values from 95_test_vectors.md (E, X, K, F are its rows) and from the rules named. First the
well-formedness checks, then decoding, single steps, the assembler, and last one witness for the hypotheses of each statement in
Certificates/Slice0/Obligations.lean.
-/

namespace Sys2Proof.Tests

open Sys2Proof Sys2Proof.Machine

/-! ### Helpers -/

/-- The test register file of 95_test_vectors.md section 2: byte `j` of `D[i]` is `8*i + j`. -/
def testFile : Vector DWord 32 := Vector.ofFn fun i => BitVec.ofNat 64 (0x0706050403020100 + 0x0808080808080808 * i.val)

/-- The conventions of 95_test_vectors.md section 2, with one or two general registers set. -/
def st (r1 : RegNum) (v1 : Word) (r2 : RegNum := r1) (v2 : Word := v1) : State :=
  ({ State.reset with dreg := testFile }.writeR r2 v2).writeR r1 v1

/-- The same in T32, with a condition for the instruction at `pc` and a value of Z. -/
def stT (cond : BitVec 4) (z : Bool) (r1 : RegNum) (v1 : Word) : State :=
  { st r1 v1 with instrSet := .t32, conds := [(0x8000, cond)], flagZ := z }

/-- The state after one step on a word placed at `pc`. -/
def next? (s : State) (w : Nat) : Option State :=
  match step (s.withFetchWord 32 w) with
  | .next t => some t
  | _ => none

/-- What one step on a word leaves: the bytes at an address, a register, and whether the `pc` moved by 4. -/
def stepLeaves (s : State) (w : Nat) (a : Word) (bytes : List Byte) (r : RegNum) (v : Word) : Bool :=
  match next? s w with
  | some t => t.mem.map Prod.snd == bytes && (t.mem.readPrefix a bytes.length == bytes) && t.readR r == v && t.pc == s.pc + 4#32
  | none => false

/-- The fault of one step on a word, if the state it leaves is the state before. -/
def faultOf (s : State) (w : Nat) : Option String :=
  match step (s.withFetchWord 32 w) with
  | .fault (.undefined t) => if t = s.withFetchWord 32 w then some "Undefined" else none
  | .fault (.hypTrap t) => if t = s.withFetchWord 32 w then some "HypTrap" else none
  | .fault (.alignmentFault _ t) => if t = s.withFetchWord 32 w then some "AlignmentFault" else none
  | _ => none

/-! ### Well-formedness: every check refuses an ill-formed term -/

theorem test_wf_a1PostReg_rm13 : WellFormed (.a1PostReg 0 0 0 false 13) = false := by decide
theorem test_wf_a1PostReg_rm15 : WellFormed (.a1PostReg 0 0 0 false 15) = false := by decide
theorem test_wf_a2PostReg : WellFormed (.a2PostReg 0 0 0 .single false 13) = false := by decide
theorem test_wf_a3PostReg : WellFormed (.a3PostReg 0 0 0 .double .bits64 15) = false := by decide
theorem test_wf_t1PostReg : WellFormed (.t1PostReg 0 0 0 true 13) = false := by decide
theorem test_wf_t2PostReg : WellFormed (.t2PostReg 0 0 0 .double true 15) = false := by decide
theorem test_wf_t3PostReg : WellFormed (.t3PostReg 0 0 0 .single .standard 13) = false := by decide
theorem test_wf_rm14 : WellFormed (.a1PostReg 28 1 3 false 14) = true := by decide

/-! ### Decoding: the words of E1 to E28, and their encoding back -/

theorem test_E1 : decodeWord .a32 0xF480030F#32 = .ok (.a1Offset 0 0 0 false) := by rfl
theorem test_E2 : decodeWord .a32 0xF48043FD#32 = .ok (.a1PostImm 4 0 7 true) := by rfl
theorem test_E3 : decodeWord .a32 0xF4C1C362#32 = .ok (.a1PostReg 28 1 3 false 2) := by rfl
theorem test_E4 : decodeWord .a32 0xF48587CF#32 = .ok (.a2Offset 8 5 3 .single false) := by rfl
theorem test_E5 : decodeWord .a32 0xF481079D#32 = .ok (.a2PostImm 0 1 2 .single true) := by rfl
theorem test_E6 : decodeWord .a32 0xF4810772#32 = .ok (.a2PostReg 0 1 1 .double true 2) := by rfl
theorem test_E7 : decodeWord .a32 0xF4811B5F#32 = .ok (.a3Offset 1 1 0 .double .bits64) := by rfl
theorem test_E8 : decodeWord .a32 0xF4810BAD#32 = .ok (.a3PostImm 0 1 1 .single .bits128) := by rfl
theorem test_E9 : decodeWord .a32 0xF4C30BC4#32 = .ok (.a3PostReg 16 3 1 .double .standard 4) := by rfl
theorem test_E10 : decodeWord .t32 0xF980030F#32 = .ok (.t1Offset 0 0 0 false) := by rfl
theorem test_E11 : decodeWord .t32 0xF98043FD#32 = .ok (.t1PostImm 4 0 7 true) := by rfl
theorem test_E12 : decodeWord .t32 0xF9C1C362#32 = .ok (.t1PostReg 28 1 3 false 2) := by rfl
theorem test_E13 : decodeWord .t32 0xF98587CF#32 = .ok (.t2Offset 8 5 3 .single false) := by rfl
theorem test_E14 : decodeWord .t32 0xF981079D#32 = .ok (.t2PostImm 0 1 2 .single true) := by rfl
theorem test_E15 : decodeWord .t32 0xF9810772#32 = .ok (.t2PostReg 0 1 1 .double true 2) := by rfl
theorem test_E16 : decodeWord .t32 0xF9811B5F#32 = .ok (.t3Offset 1 1 0 .double .bits64) := by rfl
theorem test_E17 : decodeWord .t32 0xF9810BAD#32 = .ok (.t3PostImm 0 1 1 .single .bits128) := by rfl
theorem test_E18 : decodeWord .t32 0xF9C30BC4#32 = .ok (.t3PostReg 16 3 1 .double .standard 4) := by rfl
theorem test_E19 : decodeWord .a32 0xF4810F0F#32 = .ok (.undefSizeA32 0 1 0 15) := by rfl
theorem test_E20 : decodeWord .a32 0xF4810B3F#32 = .ok (.undefAlignA32 0 1 0 15) := by rfl
theorem test_E21 : decodeWord .t32 0xF9810F0F#32 = .ok (.undefSizeT32 0 1 0 15) := by rfl
theorem test_E22 : decodeWord .t32 0xF9810B7F#32 = .ok (.undefAlignT32 0 1 1 15) := by rfl

/-- E23 and E24 have `d4 = 32`; E25 has `d4 = 31`. -/
theorem test_E23_E24_E25 :
    ((decodeWord .a32 0xF4C1D30F#32).toOption.bind consts?).map DecodeConsts.d4 = some 32 ∧
    ((decodeWord .a32 0xF4C1A72F#32).toOption.bind consts?).map DecodeConsts.d4 = some 32 ∧
    ((decodeWord .a32 0xF4C1972F#32).toOption.bind consts?).map DecodeConsts.d4 = some 31 := by decide
theorem test_E26 : decodeWord .a32 0xF48F030F#32 = .ok (.a1Offset 0 15 0 false) := by rfl
theorem test_E27 : decodeWord .a32 0xF4A0030F#32 = .error (.notVst4SingleLane 0xF4A0030F#32) := by rfl
theorem test_E28 : decodeWord .a32 0xF480020F#32 = .error (.notVst4SingleLane 0xF480020F#32) := by rfl

/-- R43: E1 and E10 as bytes in memory; R74: a 16-bit T32 instruction; fewer bytes than an instruction. -/
theorem test_decode_bytes :
    decode .a32 [0x0F, 0x03, 0x80, 0xF4, 0xAA] = .ok (.a1Offset 0 0 0 false, [0xAA]) ∧
    decode .t32 [0x80, 0xF9, 0x0F, 0x03] = .ok (.t1Offset 0 0 0 false, []) ∧
    decode .t32 [0x00, 0xE0, 0x0F, 0x03] = .error (.narrowT32 0xE000#16) ∧
    decode .t32 [0x80, 0xF9] = .error .truncated ∧ decode .a32 [0x0F, 0x03, 0x80] = .error .truncated := by
  refine ⟨rfl, rfl, rfl, rfl, rfl⟩

/-- The encoder on the decoded forms of E3, E6, E9, E18 and E22. -/
theorem test_encode :
    encode (.a1PostReg 28 1 3 false 2) = 0xF4C1C362#32 ∧ encode (.a2PostReg 0 1 1 .double true 2) = 0xF4810772#32 ∧
    encode (.a3PostReg 16 3 1 .double .standard 4) = 0xF4C30BC4#32 ∧
    encode (.t3PostReg 16 3 1 .double .standard 4) = 0xF9C30BC4#32 ∧ encode (.undefAlignT32 0 1 1 15) = 0xF9810B7F#32 := by decide

/-- The opcode table's numbering: `hw1` of a T32 row is bits 31:16. -/
theorem test_decodeTableWord :
    decodeTableWord 32 0xF480030F = some (.a1Offset 0 0 0 false) ∧ decodeTableWord 32 0xF9C1C362 = some (.t1PostReg 28 1 3 false 2) ∧
    decodeTableWord 32 0xF4A0030F = none := by decide

/-! ### Single steps -/

theorem test_X1_a1Offset : stepLeaves (st 0 0x1000) 0xF480030F 0x1000 [0x00, 0x08, 0x10, 0x18] 0 0x1000 = true := by decide
theorem test_X2_a1PostImm : stepLeaves (st 0 0x1000) 0xF48043FD 0x1000 [0x27, 0x2F, 0x37, 0x3F] 0 0x1004 = true := by decide
theorem test_X3_a1PostReg : stepLeaves (st 1 0x2000 2 0x10) 0xF4C1C362 0x2000 [0xE3, 0xEB, 0xF3, 0xFB] 1 0x2010 = true := by decide
theorem test_X4_a2Offset :
    stepLeaves (st 5 0x2000) 0xF48587CF 0x2000 [0x46, 0x47, 0x4E, 0x4F, 0x56, 0x57, 0x5E, 0x5F] 5 0x2000 = true := by decide
theorem test_X5_a2PostImm :
    stepLeaves (st 1 0x2000) 0xF481079D 0x2000 [0x04, 0x05, 0x0C, 0x0D, 0x14, 0x15, 0x1C, 0x1D] 1 0x2008 = true := by decide
/-- X6 with the register increment of K5. -/
theorem test_K5_a2PostReg :
    stepLeaves (st 1 0x2000 2 0xFFFFFFF8) 0xF4810772 0x2000 [0x02, 0x03, 0x12, 0x13, 0x22, 0x23, 0x32, 0x33] 1 0x1FF8 = true := by decide
theorem test_X7_a3Offset :
    stepLeaves (st 1 0x2000) 0xF4811B5F 0x2000
      [0x08, 0x09, 0x0A, 0x0B, 0x18, 0x19, 0x1A, 0x1B, 0x28, 0x29, 0x2A, 0x2B, 0x38, 0x39, 0x3A, 0x3B] 1 0x2000 = true := by decide
theorem test_X8_a3PostImm :
    stepLeaves (st 1 0x2000) 0xF4810BAD 0x2000
      [0x04, 0x05, 0x06, 0x07, 0x0C, 0x0D, 0x0E, 0x0F, 0x14, 0x15, 0x16, 0x17, 0x1C, 0x1D, 0x1E, 0x1F] 1 0x2010 = true := by decide
theorem test_X9_a3PostReg :
    stepLeaves (st 3 0x3000 4 0x40) 0xF4C30BC4 0x3000
      [0x84, 0x85, 0x86, 0x87, 0x94, 0x95, 0x96, 0x97, 0xA4, 0xA5, 0xA6, 0xA7, 0xB4, 0xB5, 0xB6, 0xB7] 3 0x3040 = true := by decide

theorem test_X10_t1Offset : stepLeaves (st 0 0x1000) 0xF980030F 0x1000 [0x00, 0x08, 0x10, 0x18] 0 0x1000 = true := by decide
theorem test_K14_t1PostImm : stepLeaves (stT 0 true 0 0x1000) 0xF98043FD 0x1000 [0x27, 0x2F, 0x37, 0x3F] 0 0x1004 = true := by decide
theorem test_X10_t1PostReg : stepLeaves (st 1 0x2000 2 0x10) 0xF9C1C362 0x2000 [0xE3, 0xEB, 0xF3, 0xFB] 1 0x2010 = true := by decide
theorem test_X10_t2Offset :
    stepLeaves (st 5 0x2000) 0xF98587CF 0x2000 [0x46, 0x47, 0x4E, 0x4F, 0x56, 0x57, 0x5E, 0x5F] 5 0x2000 = true := by decide
theorem test_X10_t2PostImm :
    stepLeaves (st 1 0x2000) 0xF981079D 0x2000 [0x04, 0x05, 0x0C, 0x0D, 0x14, 0x15, 0x1C, 0x1D] 1 0x2008 = true := by decide
theorem test_X10_t2PostReg :
    stepLeaves (st 1 0x2000 2 0x10) 0xF9810772 0x2000 [0x02, 0x03, 0x12, 0x13, 0x22, 0x23, 0x32, 0x33] 1 0x2010 = true := by decide
theorem test_X10_t3Offset :
    stepLeaves (st 1 0x2000) 0xF9811B5F 0x2000
      [0x08, 0x09, 0x0A, 0x0B, 0x18, 0x19, 0x1A, 0x1B, 0x28, 0x29, 0x2A, 0x2B, 0x38, 0x39, 0x3A, 0x3B] 1 0x2000 = true := by decide
theorem test_X10_t3PostImm :
    stepLeaves (st 1 0x2000) 0xF9810BAD 0x2000
      [0x04, 0x05, 0x06, 0x07, 0x0C, 0x0D, 0x0E, 0x0F, 0x14, 0x15, 0x16, 0x17, 0x1C, 0x1D, 0x1E, 0x1F] 1 0x2010 = true := by decide
theorem test_X10_t3PostReg :
    stepLeaves (st 3 0x3000 4 0x40) 0xF9C30BC4 0x3000
      [0x84, 0x85, 0x86, 0x87, 0x94, 0x95, 0x96, 0x97, 0xA4, 0xA5, 0xA6, 0xA7, 0xB4, 0xB5, 0xB6, 0xB7] 3 0x3040 = true := by decide

/-- K3: the bytes wrap to 0, and so does the writeback. -/
theorem test_K3_a1PostImm_wraps :
    (next? (st 4 0xFFFFFFFE) 0xF484030D).map (fun t => (t.mem, t.readR 4)) =
      some ([(0, 0x10), (1, 0x18), (0xFFFFFFFE, 0x00), (0xFFFFFFFF, 0x08)], 2) := by decide
theorem test_K1_a1PostReg_same_base : stepLeaves (st 2 0x10) 0xF4820302 0x10 [0x00, 0x08, 0x10, 0x18] 2 0x20 = true := by decide
theorem test_K7_a2Offset_strict : faultOf { st 5 0x2001 with strictAlign := true } 0xF48587CF = some "AlignmentFault" := by decide
theorem test_K9_a1Offset_strict :
    stepLeaves { st 0 0x1003 with strictAlign := true } 0xF480030F 0x1003 [0x00, 0x08, 0x10, 0x18] 0 0x1003 = true := by decide
theorem test_K10_a2PostReg_bigEndian :
    stepLeaves { st 1 0x2000 2 0x10 with bigEndianData := true } 0xF4810772 0x2000
      [0x03, 0x02, 0x13, 0x12, 0x23, 0x22, 0x33, 0x32] 1 0x2010 = true := by decide
theorem test_K13_t1PostImm_skipped : stepLeaves (stT 1 true 0 0x1000) 0xF98043FD 0x1000 [] 0 0x1000 = true := by decide
theorem test_F3_a3PostImm_misaligned : faultOf (st 1 0x2008) 0xF4810BAD = some "AlignmentFault" := by decide
theorem test_F4_a3Offset_aligned :
    stepLeaves (st 1 0x2008) 0xF4811B5F 0x2008
      [0x08, 0x09, 0x0A, 0x0B, 0x18, 0x19, 0x1A, 0x1B, 0x28, 0x29, 0x2A, 0x2B, 0x38, 0x39, 0x3A, 0x3B] 1 0x2008 = true := by decide
theorem test_F10_undefSizeA32 : faultOf { st 1 0x2000 with advSIMDAccess := .hypTrap } 0xF4810F0F = some "Undefined" := by decide
theorem test_F6_undefAlignA32 : faultOf (st 1 0x2000) 0xF4810B3F = some "Undefined" := by decide
theorem test_F18_undefSizeT32 : faultOf (stT 1 true 1 0x2000) 0xF9810F0F = some "Undefined" := by decide
theorem test_E22_undefAlignT32 : faultOf (st 1 0x2000) 0xF9810B7F = some "Undefined" := by decide
theorem test_F11_t1Offset_skips_enable :
    stepLeaves { stT 1 true 0 0x1000 with advSIMDAccess := .undefined } 0xF980030F 0x1000 [] 0 0x1000 = true := by decide

/-! ### The assembler -/

/-- E3 as text, and its condition; a condition other than `AL` in A32, `.N`, double spacing for size 8, and `:32` for size 16 are
refused (R76, R78, R79). -/
theorem test_assemble :
    assemble ⟨.a32, none, .omitted, 8, [(28, 3), (29, 3), (30, 3), (31, 3)], 1, none, .postReg 2⟩ =
      some (.a1PostReg 28 1 3 false 2, 14#4) ∧
    assemble ⟨.t32, some 0#4, .wide, 16, [(0, 1), (2, 1), (4, 1), (6, 1)], 1, some 64, .postReg 2⟩ =
      some (.t2PostReg 0 1 1 .double true 2, 0#4) ∧
    assemble ⟨.a32, some 0#4, .omitted, 8, [(28, 3), (29, 3), (30, 3), (31, 3)], 1, none, .offset⟩ = none ∧
    assemble ⟨.t32, none, .narrow, 8, [(28, 3), (29, 3), (30, 3), (31, 3)], 1, none, .offset⟩ = none ∧
    assemble ⟨.a32, none, .omitted, 8, [(0, 3), (2, 3), (4, 3), (6, 3)], 1, none, .offset⟩ = none ∧
    assemble ⟨.a32, none, .omitted, 16, [(0, 3), (1, 3), (2, 3), (3, 3)], 1, some 32, .offset⟩ = none ∧
    assemble ⟨.a32, none, .omitted, 8, [(29, 3), (30, 3), (31, 3), (32, 3)], 1, none, .offset⟩ = none := by decide
theorem test_disassemble :
    disassemble (.a3PostImm 0 1 1 .single .bits128) none =
      some ⟨.a32, none, .omitted, 32, [(0, 1), (1, 1), (2, 1), (3, 1)], 1, some 128, .postImm⟩ ∧
    disassemble (.a1Offset 29 1 0 false) none = none := by decide

/-! ### Witnesses: the hypotheses of each statement can be met, each clause at a boundary value -/

/-- The instruction of most witnesses: `VST4.16 {D25[3],D27[3],D29[3],D31[3]}, [R1]!`, whose list ends at `D31`. -/
def wInstr : Instr := .a2PostImm 25 1 3 .double false
/-- The decode constants of `wInstr`. -/
def wConsts : DecodeConsts := constsSize16 25 1 3 .double false 13
/-- A T32 instruction with `:128`: `VST4.32 {D28[1],D29[1],D30[1],D31[1]}, [R1:128], R14`. -/
def wInstrT : Instr := .t3PostReg 28 1 1 .single .bits128 14
/-- The decode constants of `wInstrT`. -/
def wConstsT : DecodeConsts := constsSize32 28 1 1 .single .bits128 14
/-- A list past `D31` by one register: E23, here with each tail. -/
def wPast (m : RegNum) : DecodeConsts := constsSize8 29 1 0 false m
/-- `MemAdmit` answers `Abort` for writes of 4 bytes at one address, as in F12. -/
def abortAt (a : Word) : List AdmitRule := [⟨a, a, some 4, none, some true, .abort⟩]

theorem wConsts_ready : StoreReady wConsts (st 1 0xFFFFFFFE) :=
  ⟨by decide, by decide, by decide, by decide, by decide, by decide, by decide⟩
theorem wConstsT_ready : StoreReady wConstsT { stT 0 true 1 0xFFFFFFF0 with strictAlign := true } :=
  ⟨by decide, by decide, by decide, by decide, by decide, by decide, by decide⟩

theorem witness_DecodeReadsEncodedInstr : WellFormed wInstrT = true ∧ WellFormed (.undefAlignT32 31 15 3 15) = true := by decide
theorem witness_EncodeRestoresDecodedWord : ∃ i, decodeWord .t32 0xF9CFFBEF#32 = .ok i := ⟨_, rfl⟩
theorem witness_UndefinedPatternsFault :
    0xF4CFFFFF#32 &&& 0xFFB00F00#32 = 0xF4800F00#32 ∧ 0xF9CFFFFF#32 &&& 0xFFB00F00#32 = 0xF9800F00#32 ∧
    0xF4800B30#32 &&& 0xFFB00F30#32 = 0xF4800B30#32 ∧ 0xF9800B30#32 &&& 0xFFB00F30#32 = 0xF9800B30#32 := by decide
theorem witness_FieldsGiveDecodeConstants :
    (0xF48003FF#32 &&& 0xFFB00300#32 = 0xF4800300#32 ∧ (0xF48003FF#32).extractLsb' 10 2 = 0#2) ∧
    (0xF98007FF#32 &&& 0xFFB00300#32 = 0xF9800300#32 ∧ (0xF98007FF#32).extractLsb' 10 2 = 1#2) ∧
    (0xF4CF0BEF#32 &&& 0xFFB00300#32 = 0xF4800300#32 ∧ (0xF4CF0BEF#32).extractLsb' 10 2 = 2#2 ∧
      (0xF4CF0BEF#32).extractLsb' 4 2 ≠ 3#2) := by decide
/-- Also for the fields of `UndefinedRowsAlwaysFault`. -/
theorem witness_IndexAlignSplitsBySize :
    (∃ f : Fields, f.size = 0#2) ∧ (∃ f : Fields, f.size = 1#2) ∧
    (∃ f : Fields, (f.size = 3#2 ∨ (f.size = 2#2 ∧ f.indexAlign.extractLsb' 0 2 = 3#2)) ∧ f.size = 2#2) ∧
    (∃ f : Fields, ¬ (f.size = 3#2 ∨ (f.size = 2#2 ∧ f.indexAlign.extractLsb' 0 2 = 3#2)) ∧ f.size = 2#2 ∧ f.indexAlign.extractLsb' 0 2 = 2#2) :=
  ⟨⟨⟨1, 14, 15, 0, 15, 14⟩, rfl⟩, ⟨⟨1, 14, 15, 1, 15, 14⟩, rfl⟩, ⟨⟨1, 15, 15, 2, 15, 15⟩, by decide⟩, ⟨⟨1, 14, 9, 2, 14, 14⟩, by decide⟩⟩
theorem witness_FetchIsLittleEndian :
    (∃ i, decodeWord .a32 (0xF4#8 ++ 0x80#8 ++ 0x03#8 ++ 0x0F#8) = .ok i) ∧
    (∃ i, decodeWord .t32 (0xF9#8 ++ 0x80#8 ++ (0x03#8 ++ 0x0F#8)) = .ok i) := ⟨⟨_, rfl⟩, ⟨_, rfl⟩⟩
theorem witness_AssemblerTextRoundTrips :
    WellFormed wInstr = true ∧ consts? wInstr = some wConsts ∧ wConsts.d + 3 * wConsts.inc ≤ 31 ∧
    WellFormed wInstrT = true ∧ consts? wInstrT = some wConstsT ∧ wConstsT.d + 3 * wConstsT.inc ≤ 31 := by decide

/-- E3 placed at `pc`. -/
def wPlaced : State := (st 1 0x2000 2 0x10).withFetchWord 32 0xF4C1C362
/-- E12 placed at a `pc` that is a multiple of 2 only. -/
def wPlacedT : State := ({ st 1 0x2000 2 0x10 with pc := 0x8002 } : State).withFetchWord 32 0xF9C1C362

theorem witness_StepRunsDecodedInstr :
    (wPlaced.pcAligned = true ∧ ∃ i rest, decode wPlaced.instrSet wPlaced.fetchBytes = .ok (i, rest)) ∧
    (wPlacedT.pcAligned = true ∧ ∃ i rest, decode wPlacedT.instrSet wPlacedT.fetchBytes = .ok (i, rest)) :=
  ⟨⟨by decide, _, _, rfl⟩, ⟨by decide, _, _, rfl⟩⟩
theorem witness_StepRunsEncodedBytes :
    WellFormed (.t1PostReg 28 1 3 false 2) = true ∧ Instr.instrSet (.t1PostReg 28 1 3 false 2) = wPlacedT.instrSet ∧
    wPlacedT.pcAligned = true ∧
    (∀ j < 4, wPlacedT.text.read (wPlacedT.pc + BitVec.ofNat 32 j).toNat = (encodeBytes (.t1PostReg 28 1 3 false 2))[j]?) := by decide
theorem witness_MisalignedPcRefused :
    (∃ s : State, s.instrSet = .a32 ∧ s.pc.toNat % 4 = 2) ∧ (∃ s : State, s.instrSet = .t32 ∧ s.pc.toNat % 2 = 1) :=
  ⟨⟨{ State.reset with pc := 0x8002 }, by decide⟩, ⟨{ State.reset with instrSet := .t32, pc := 0xFFFFFFFF }, by decide⟩⟩
/-- The load form of E27 in both sets, a 16-bit instruction, text cut off inside an instruction at each boundary, and no text. -/
theorem witness_ForeignWordsRefused :
    (∃ s : State, s.pcAligned = true ∧ s.instrSet = .a32 ∧ 0xF4A0030F#32 &&& 0xFFB00300#32 ≠ 0xF4800300#32 ∧
      s.fetchBytes = [0x0F#8, 0x03#8, 0xA0#8, 0xF4#8]) ∧
    (∃ s : State, s.pcAligned = true ∧ s.instrSet = .t32 ∧ 0xE8000000#32 &&& 0xFFB00300#32 ≠ 0xF9800300#32 ∧
      29 ≤ ((0xE8000000#32).extractLsb' 27 5).toNat ∧ s.fetchBytes = [0x00#8, 0xE8#8, 0x00#8, 0x00#8]) ∧
    (∃ s : State, s.pcAligned = true ∧ s.instrSet = .t32 ∧ ((0xE7#8).extractLsb' 3 5).toNat < 29 ∧ s.fetchBytes = [0xFF#8, 0xE7#8]) ∧
    (∃ s : State, s.pcAligned = true ∧ s.instrSet = .a32 ∧ s.fetchBytes.length = 1) ∧
    (∃ s : State, s.pcAligned = true ∧ s.instrSet = .a32 ∧ s.fetchBytes.length = 3) ∧
    (∃ s : State, s.pcAligned = true ∧ s.instrSet = .t32 ∧ s.fetchBytes.length = 1) ∧
    (∃ s : State, s.pcAligned = true ∧ s.instrSet = .t32 ∧ 29 ≤ ((0xF9#8).extractLsb' 3 5).toNat ∧ s.fetchBytes = [0x80#8, 0xF9#8]) ∧
    (∃ s : State, s.pcAligned = true ∧ s.instrSet = .t32 ∧ 29 ≤ ((0xE8#8).extractLsb' 3 5).toNat ∧
      s.fetchBytes = [0x00#8, 0xE8#8, 0x0F#8]) ∧
    (∃ s : State, s.pcAligned = true ∧ s.text.read s.pc.toNat = none) :=
  ⟨⟨State.reset.withFetchWord 32 0xF4A0030F, by decide⟩,
   ⟨{ State.reset with instrSet := .t32, text := [(0x8000, 0x00), (0x8001, 0xE8), (0x8002, 0), (0x8003, 0)] }, by decide⟩,
   ⟨{ State.reset with instrSet := .t32, text := [(0x8000, 0xFF), (0x8001, 0xE7)] }, by decide⟩,
   ⟨{ State.reset with text := [(0x8000, 0x0F)] }, by decide⟩,
   ⟨{ State.reset with text := [(0x8000, 0x0F), (0x8001, 0x03), (0x8002, 0x80)] }, by decide⟩,
   ⟨{ State.reset with instrSet := .t32, text := [(0x8000, 0x80)] }, by decide⟩,
   ⟨{ State.reset with instrSet := .t32, text := [(0x8000, 0x80), (0x8001, 0xF9)] }, by decide⟩,
   ⟨{ State.reset with instrSet := .t32, text := [(0x8000, 0x00), (0x8001, 0xE8), (0x8002, 0x0F)] }, by decide⟩,
   ⟨State.reset, by decide⟩⟩

theorem witness_ReadyStoreCompletes :
    consts? wInstrT = some wConstsT ∧ StoreReady wConstsT { stT 0 true 1 0xFFFFFFF0 with strictAlign := true } ∧
    conditionHolds (condOf wInstrT { stT 0 true 1 0xFFFFFFF0 with strictAlign := true }) false true false false = true :=
  ⟨rfl, wConstsT_ready, by decide⟩
/-- In either byte order. -/
theorem witness_CompletedStoreWroteElements :
    consts? wInstr = some wConsts ∧ wConsts.d + 3 * wConsts.inc = 31 ∧
    conditionHolds (condOf wInstr (st 1 0xFFFFFFFE)) false false false false = true ∧
    (∃ t, exec wInstr (st 1 0xFFFFFFFE) = .next t ∧ (st 1 0xFFFFFFFE).bigEndianData = false) ∧
    (∃ t, exec wInstr { st 1 0xFFFFFFFE with bigEndianData := true } = .next t) := ⟨rfl, rfl, rfl, ⟨_, rfl, rfl⟩, ⟨_, rfl⟩⟩
theorem witness_A1T1StoresFourBytes :
    StoreReady ⟨1, 7, 1, 4, 28, 1, 15⟩ (st 1 0xFFFFFFFC) ∧ StoreReady ⟨1, 7, 1, 4, 28, 1, 13⟩ (stT 0 true 1 0xFFFFFFFC) ∧
    StoreReady ⟨1, 7, 1, 1, 28, 1, 14⟩ (stT 0 true 1 0xFFFFFFFF) ∧
    conditionHolds (stT 0 true 1 0xFFFFFFFC).currentCond false true false false = true :=
  ⟨⟨by decide, by decide, by decide, by decide, by decide, by decide, by decide⟩,
   ⟨by decide, by decide, by decide, by decide, by decide, by decide, by decide⟩,
   ⟨by decide, by decide, by decide, by decide, by decide, by decide, by decide⟩, by decide⟩
theorem witness_A2T2StoresFourHalfwords :
    StoreReady ⟨2, 3, 2, 8, 25, 1, 15⟩ (st 1 0xFFFFFFF8) ∧ StoreReady ⟨2, 3, 1, 8, 28, 1, 13⟩ (stT 0 true 1 0xFFFFFFF8) ∧
    StoreReady ⟨2, 3, 2, 1, 25, 1, 14⟩ (stT 0 true 1 0xFFFFFFFF) ∧
    conditionHolds (stT 0 true 1 0xFFFFFFF8).currentCond false true false false = true :=
  ⟨⟨by decide, by decide, by decide, by decide, by decide, by decide, by decide⟩,
   ⟨by decide, by decide, by decide, by decide, by decide, by decide, by decide⟩,
   ⟨by decide, by decide, by decide, by decide, by decide, by decide, by decide⟩, by decide⟩
theorem witness_A3T3StoresFourWords :
    StoreReady ⟨4, 1, 2, 16, 25, 1, 15⟩ (st 1 0xFFFFFFF0) ∧ StoreReady ⟨4, 1, 1, 8, 28, 1, 13⟩ (stT 0 true 1 0xFFFFFFF8) ∧
    StoreReady ⟨4, 1, 2, 1, 25, 1, 14⟩ (stT 0 true 1 0xFFFFFFFF) ∧
    conditionHolds (stT 0 true 1 0xFFFFFFF0).currentCond false true false false = true :=
  ⟨⟨by decide, by decide, by decide, by decide, by decide, by decide, by decide⟩,
   ⟨by decide, by decide, by decide, by decide, by decide, by decide, by decide⟩,
   ⟨by decide, by decide, by decide, by decide, by decide, by decide, by decide⟩, by decide⟩
theorem witness_T32FormsActAsA32Forms : conditionHolds (stT 1 false 1 0).currentCond false false false false = true := by decide
theorem witness_SameBaseAndIndexDoubles :
    consts? (.a1PostReg 28 14 7 true 14) = some (constsSize8 28 14 7 true 14) ∧
    (constsSize8 28 14 7 true 14).m = (constsSize8 28 14 7 true 14).n ∧ (constsSize8 28 14 7 true 14).n ≠ 13#4 ∧
    StoreReady (constsSize8 28 14 7 true 14) (st 14 0xFFFFFFFC) ∧
    conditionHolds (condOf (.a1PostReg 28 14 7 true 14) (st 14 0xFFFFFFFC)) false false false false = true :=
  ⟨rfl, by decide, by decide, ⟨by decide, by decide, by decide, by decide, by decide, by decide, by decide⟩, by decide⟩
theorem witness_StoreWrapsAtTop :
    consts? wInstr = some wConsts ∧ StoreReady wConsts (st 1 0xFFFFFFFE) ∧
    conditionHolds (condOf wInstr (st 1 0xFFFFFFFE)) false false false false = true ∧
    2 ^ 32 < ((st 1 0xFFFFFFFE).readR wConsts.n).toNat + 4 * wConsts.ebytes ∧ wConsts.m = 13#4 ∧
    2 ^ 32 ≤ ((st 1 0xFFFFFFFE).readR wConsts.n).toNat + (1 * wConsts.ebytes + 0) :=
  ⟨rfl, wConsts_ready, by decide, by decide, rfl, by decide⟩

/-- Not UNPREDICTABLE, with a condition that fails: K13's. -/
theorem witness_FailedConditionOnlyAdvances :
    consts? wInstrT = some wConstsT ∧ wConstsT.n ≠ 15#4 ∧ wConstsT.d + 3 * wConstsT.inc ≤ 31 ∧
    conditionHolds (condOf wInstrT (stT 1 true 1 0x2000)) false true false false = false := by decide
/-- What the statements on where the store stops have in common. -/
abbrev Stops (i : Instr) (c : DecodeConsts) (s : State) : Prop :=
  consts? i = some c ∧ c.n ≠ 15#4 ∧ c.d + 3 * c.inc ≤ 31 ∧
    conditionHolds (condOf i s) s.flagN s.flagZ s.flagC s.flagV = true
/-- With `R[m]` and without writeback, completed; and a fault. -/
theorem witness_WritebackAddsIncrement :
    (∃ s : State, Stops (.a1PostReg 28 1 3 false 14) (constsSize8 28 1 3 false 14) s ∧ ∃ t, exec (.a1PostReg 28 1 3 false 14) s = .next t) ∧
    (∃ s : State, Stops (.a1Offset 28 1 3 false) (constsSize8 28 1 3 false 15) s ∧ ∃ t, exec (.a1Offset 28 1 3 false) s = .next t) ∧
    (∃ s : State, Stops wInstr wConsts s ∧ ∃ f, exec wInstr s = .fault f) :=
  ⟨⟨st 1 0xFFFFFFFE 14 0xFFFFFFFF, by decide, _, rfl⟩, ⟨st 1 0xFFFFFFFE, by decide, _, rfl⟩,
   ⟨{ st 1 0x2001 with strictAlign := true }, by decide, _, rfl⟩⟩
theorem witness_EnableVerdictDecides :
    Stops wInstr wConsts { st 1 0x2001 with advSIMDAccess := .undefined } ∧
    Stops wInstr wConsts { st 1 0x2001 with advSIMDAccess := .hypTrap } ∧
    Stops wInstr wConsts (st 1 0x2001) ∧ (st 1 0x2001).advSIMDAccess = .enabled := by decide
/-- `:64`, one byte off the boundary, at the top. -/
theorem witness_MisalignedBaseFaults :
    Stops (.a2PostImm 25 1 3 .double true) (constsSize16 25 1 3 .double true 13) (st 1 0xFFFFFFFF) ∧
    (st 1 0xFFFFFFFF).advSIMDAccess = .enabled ∧
    ((st 1 0xFFFFFFFF).readR (constsSize16 25 1 3 .double true 13).n).toNat % (constsSize16 25 1 3 .double true 13).alignment ≠ 0 := by decide
/-- Each clause: strict and unaligned; not strict; an instruction with `:128`. -/
theorem witness_StrictAlignChecksElements :
    (∃ s : State, Stops wInstr wConsts s ∧ s.advSIMDAccess = .enabled ∧ (s.readR wConsts.n).toNat % wConsts.alignment = 0 ∧
      s.strictAlign = true ∧ (s.readR wConsts.n).toNat % wConsts.ebytes ≠ 0) ∧
    (∃ s : State, Stops wInstr wConsts s ∧ s.advSIMDAccess = .enabled ∧ (s.readR wConsts.n).toNat % wConsts.alignment = 0 ∧
      s.strictAlign = false) ∧
    (∃ s : State, Stops wInstrT wConstsT s ∧ s.advSIMDAccess = .enabled ∧ (s.readR wConstsT.n).toNat % wConstsT.alignment = 0 ∧
      wConstsT.alignment ≠ 1) :=
  ⟨⟨{ st 1 0xFFFFFFFF with strictAlign := true }, by decide⟩, ⟨st 1 0xFFFFFFFF, by decide⟩, ⟨stT 0 true 1 0xFFFFFFF0, by decide⟩⟩
/-- The last of the eight bytes is the only text. -/
theorem witness_StoreOverTextRefused :
    ∃ s : State, Stops wInstr wConsts s ∧ s.advSIMDAccess = .enabled ∧ (s.readR wConsts.n).toNat % wConsts.alignment = 0 ∧
      (s.strictAlign = true → (s.readR wConsts.n).toNat % wConsts.ebytes = 0) ∧
      (s.text.read (s.readR wConsts.n + BitVec.ofNat 32 7).toNat).isSome = true ∧
      ∀ j < 7, s.text.read (s.readR wConsts.n + BitVec.ofNat 32 j).toNat = none :=
  ⟨{ st 1 0x7FF9 with text := [(0x8000, 0)] }, by decide⟩
/-- What leads up to the question to `MemAdmit`. -/
abbrev Asks (i : Instr) (c : DecodeConsts) (s : State) : Prop :=
  Stops i c s ∧ s.advSIMDAccess = .enabled ∧ (s.readR c.n).toNat % c.alignment = 0 ∧
    (s.strictAlign = true → (s.readR c.n).toNat % c.ebytes = 0) ∧
    (∀ j < 4 * c.ebytes, s.text.read (s.readR c.n + BitVec.ofNat 32 j).toNat = none)
/-- The first element (k = 0) and the last (k = 3) as the first that is refused. -/
theorem witness_RefusedElementAborts :
    (∃ s : State, Asks wInstrT wConstsT s ∧
      memAdmit s.admitRules (s.readR wConstsT.n + BitVec.ofNat 32 (0 * wConstsT.ebytes)) wConstsT.ebytes (decide (s.el ≠ .el0)) true = .abort) ∧
    (∃ s : State, Asks wInstrT wConstsT s ∧
      (∀ q < 3, memAdmit s.admitRules (s.readR wConstsT.n + BitVec.ofNat 32 (q * wConstsT.ebytes)) wConstsT.ebytes (decide (s.el ≠ .el0)) true = .ok) ∧
      memAdmit s.admitRules (s.readR wConstsT.n + BitVec.ofNat 32 (3 * wConstsT.ebytes)) wConstsT.ebytes (decide (s.el ≠ .el0)) true = .abort) :=
  ⟨⟨{ stT 0 true 1 0x2000 with admitRules := abortAt 0x2000 }, by decide⟩,
   ⟨{ stT 0 true 1 0xFFFFFFF0 with admitRules := abortAt 0xFFFFFFFC, el := .el0 }, by decide⟩⟩
theorem witness_BaseR15Refused : consts? (.a1Offset 0 15 0 false) = some (constsSize8 0 15 0 false 15) ∧ (constsSize8 0 15 0 false 15).n = 15#4 := by
  decide
theorem witness_ListPastD31FollowsChoice :
    consts? (.a1Offset 29 1 0 false) = some (wPast 15) ∧ consts? (.a1PostImm 29 1 0 false) = some (wPast 13) ∧
    consts? (.t1PostReg 29 1 0 false 14) = some (wPast 14) ∧ (wPast 15).n ≠ 15#4 ∧ 31 < (wPast 15).d + 3 * (wPast 15).inc ∧
    ({ st 1 0 with cuChoice := .refuse } : State).cuChoice = .refuse ∧ ({ st 1 0 with cuChoice := .undefined } : State).cuChoice = .undefined ∧
    ({ st 1 0 with cuChoice := .nop } : State).cuChoice = .nop ∧ ({ st 1 0xFFFFFFFF with cuChoice := .unknown } : State).cuChoice = .unknown ∧
    (∀ j < 4 * (wPast 15).ebytes, (st 1 0xFFFFFFFF).text.read ((st 1 0xFFFFFFFF).readR (wPast 15).n + BitVec.ofNat 32 j).toNat = none) := by decide

theorem witness_next : ∃ t, exec wInstr (st 1 0xFFFFFFFE) = .next t := ⟨_, rfl⟩
/-- Under `CUChoice = Unknown` too there is a next state. -/
theorem witness_next_unknown : ∃ t, exec (.a1PostImm 29 1 0 false) { st 1 0xFFFFFFFF with cuChoice := .unknown } = .next t := ⟨_, rfl⟩
theorem witness_OnlyBlockBaseAndPcChange :
    (∃ t, exec wInstr (st 1 0xFFFFFFFE) = .next t) ∧
    (∃ f, exec wInstr { st 1 0x2000 with advSIMDAccess := .hypTrap } = .fault f ∧ ∀ a t, f ≠ .dataAbort a t) :=
  ⟨⟨_, rfl⟩, ⟨_, rfl, by simp⟩⟩
/-- A fault with nothing changed, and a Data Abort (F12). -/
theorem witness_FaultsLeaveThisState :
    (∃ f, exec (.undefAlignT32 0 1 1 15) (st 1 0) = .fault f) ∧
    (∃ a t, exec (.a3PostImm 0 1 1 .single .bits128) { st 1 0x2000 with admitRules := abortAt 0x2008 } = .fault (.dataAbort a t) ∧ a = 0x2008#32) :=
  ⟨⟨_, rfl⟩, ⟨_, _, rfl, by decide⟩⟩
theorem witness_PcAdvancesOrStays :
    (∃ t, exec wInstr { st 1 0x2000 with pc := 0xFFFFFFFC } = .next t ∧ t.pc = 0) ∧ (∃ f, exec (.undefSizeA32 0 1 0 15) (st 1 0) = .fault f) :=
  ⟨⟨_, rfl, by decide⟩, ⟨_, rfl⟩⟩
/-- EQ with Z = 1 under any N; EL1 and EL3 are both not EL0. The outcome is a next state, or (F12) a Data Abort, or a refusal. -/
theorem witness_PstateReadOnlyThroughTests :
    conditionHolds (condOf wInstrT (stT 0 true 1 0x2000)) true true false true =
      conditionHolds (condOf wInstrT (stT 0 true 1 0x2000)) false true false false ∧
    (EL.el3 = .el0 ↔ (stT 0 true 1 0x2000).el = .el0) ∧ (∃ t, leaves (exec wInstrT (stT 0 true 1 0x2000)) t) ∧
    (∃ f, exec wInstrT { stT 0 true 1 0x2000 with admitRules := abortAt 0x2008 } = .fault f) ∧
    (∃ r, exec wInstrT { stT 0 true 1 0x2000 with text := [(0x2000, 0)] } = .refused r) :=
  ⟨by decide, by decide, ⟨_, .inl rfl⟩, ⟨_, rfl⟩, ⟨_, rfl⟩⟩
theorem witness_ControlRegistersOnlyThroughVerdict :
    (∃ t, leaves (exec wInstr (st 1 0x2000)) t) ∧ ∃ t, leaves (exec wInstr { st 1 0x2000 with advSIMDAccess := .hypTrap }) t :=
  ⟨⟨_, .inl rfl⟩, ⟨_, .inr ⟨_, rfl, rfl⟩⟩⟩
/-- The lanes other than lane 3 of `D25` and the registers not listed differ. -/
theorem witness_OnlyListedLanesAreRead :
    (∀ c, consts? wInstr = some c → ∀ k < 4, ((({ st 1 0x2000 with dreg := (testFile.set 0 0).set 25 0xCFCE000000000000 } : State).readD
        (c.d + k * c.inc)).extractLsb' (c.index * (8 * c.ebytes)) (8 * c.ebytes)) =
      ((st 1 0x2000).readD (c.d + k * c.inc)).extractLsb' (c.index * (8 * c.ebytes)) (8 * c.ebytes)) ∧
    (∃ t, leaves (exec wInstr (st 1 0x2000)) t) ∧ consts? wInstr = some wConsts :=
  ⟨fun c h => by cases h; decide, ⟨_, .inl rfl⟩, rfl⟩

/-- Every register but the base and the index differs. -/
theorem witness_OnlyBaseAndIndexAreRead :
    consts? (.a1PostReg 28 1 3 false 14) = some (constsSize8 28 1 3 false 14) ∧
    ({ st 1 0x2000 14 0x10 with gpr := (st 14 0x10).gpr.set 1 0x2000 |>.set 0 7 } : State).readR 1#4 = (st 1 0x2000 14 0x10).readR 1#4 ∧
    ({ st 1 0x2000 14 0x10 with gpr := (st 14 0x10).gpr.set 1 0x2000 |>.set 0 7 } : State).readR 14#4 = (st 1 0x2000 14 0x10).readR 14#4 ∧
    (∃ t, exec (.a1PostReg 28 1 3 false 14) (st 1 0x2000 14 0x10) = .next t) ∧
    (consts? (.a1Offset 28 1 3 false) = some (constsSize8 28 1 3 false 15) ∧ ∃ t, exec (.a1Offset 28 1 3 false) (st 1 0x2000 14 0x10) = .next t) ∧
    (∃ f, exec (.a1PostReg 28 1 3 false 14) { st 1 0x2000 14 0x10 with advSIMDAccess := .undefined } = .fault f) :=
  ⟨rfl, by decide, by decide, ⟨_, rfl⟩, ⟨rfl, _, rfl⟩, ⟨_, rfl⟩⟩

/-- F13 at the reset state: `CUChoice` has its default, `Refuse` (R6, R121). -/
theorem test_F13_reset_refuses : exec (.a1Offset 29 1 0 false) (st 1 0x2000) = .refused .listPastD31 := by rfl
theorem reset_inv : State.reset.Inv := ⟨by decide, by decide, fun _ h => by simp [State.reset, Memory.read] at h, by decide⟩
theorem witness_StepKeepsInv : wPlaced.Inv ∧ ∃ t, step wPlaced = .next t :=
  ⟨⟨by decide, by decide, fun _ _ => rfl, by decide⟩, ⟨_, rfl⟩⟩
/-- `[R1]` is the instruction's own text, and there is data listed under it; the condition fails, so the step completes. -/
theorem witness_StepLeavesTextBytes :
    ∃ s t : State, step s = .next t ∧ (s.text.read (0x8000#32).toNat).isSome = true ∧ s.mem.read (0x8000#32).toNat = some 0x55 :=
  ⟨{ stT 1 true 1 0x8000 with
      text := (wordBytes .t32 (encode wInstrT)).zipIdx.map fun p => (0x8000 + p.2, p.1), mem := [(0x8000, 0x55)] },
   _, rfl, by decide, by decide⟩
/-- The last aligned `pc` of each instruction set. -/
theorem witness_LoadedInstrIsLaunched :
    WellFormed wInstr = true ∧ (∃ s : State, s.pc.toNat % 4 = 0 ∧ s.pc = 0xFFFFFFFC#32) ∧
    WellFormed (.undefAlignT32 31 15 3 15) = true ∧ (∃ s : State, s.pc.toNat % 2 = 0 ∧ s.pc = 0xFFFFFFFE#32) :=
  ⟨by decide, ⟨{ State.reset with pc := 0xFFFFFFFC }, by decide⟩, by decide, ⟨{ State.reset with pc := 0xFFFFFFFE }, by decide⟩⟩
/-- `wInstr` alone in the program text, its stored bytes just below it. -/
def wLaunched : State := (st 1 0x7FF8).withFetchWord 32 (encode wInstr).toNat
theorem wLaunched_launch : wLaunched.LaunchOk wInstr :=
  ⟨by decide, by decide, by rfl, ⟨by decide, by decide⟩, fun c h _ => by cases h; decide⟩
theorem witness_LaunchedStoreCompletes :
    wLaunched.LaunchOk wInstr ∧ consts? wInstr = some wConsts ∧ wConsts.n ≠ 15#4 ∧ wConsts.d + 3 * wConsts.inc ≤ 31 ∧
    wLaunched.enableVerdict = .enabled ∧ (wLaunched.readR wConsts.n).toNat % wConsts.alignment = 0 ∧
    (wLaunched.strictAlign = true → (wLaunched.readR wConsts.n).toNat % wConsts.ebytes = 0) ∧
    (∀ k < 4, memAdmit wLaunched.admitRules (wLaunched.readR wConsts.n + BitVec.ofNat 32 (k * wConsts.ebytes)) wConsts.ebytes
      (decide (wLaunched.elOfMode ≠ .el0)) true = .ok) ∧
    conditionHolds (condOf wInstr wLaunched) wLaunched.flagN wLaunched.flagZ wLaunched.flagC wLaunched.flagV = true :=
  ⟨wLaunched_launch, by decide, by decide, by decide, by decide, by decide, by decide, by decide, by decide⟩
/-- How a run ended, without its state. -/
def endName : RunEnd → String
  | .completed _ => "completed"
  | .faulted _ => "faulted"
  | .refused _ => "refused"
  | .unfinished _ => "unfinished"
/-- A run of the whole text, at the top of the address space so that the `pc` just past it is 0; one of no steps; one that faults; one
whose text has a gap, whose second instruction is no more there. -/
theorem test_runEnd :
    endName (runEnd 1 (({ st 1 0x2000 with pc := 0xFFFFFFFC } : State).withFetchWord 32 (encode wInstr).toNat)) = "completed" ∧
    endName (runEnd 0 wLaunched) = "unfinished" ∧
    endName (runEnd 1 { wLaunched with advSIMDAccess := .undefined }) = "faulted" ∧
    endName (runEnd 2 { wLaunched with text := wLaunched.text ++ [(0x8008, 0)] }) = "refused" := by decide
theorem witness_RunEndSaysWhatRan :
    (∃ t, runEnd 1 wLaunched = .completed t) ∧ (∃ f, runEnd 1 { wLaunched with advSIMDAccess := .undefined } = .faulted f) ∧
    (∃ r, runEnd 2 { wLaunched with text := wLaunched.text ++ [(0x8008, 0)] } = .refused r) ∧
    (∃ t, Sys2Proof.core.run 1 wLaunched = .next t) ∧ wLaunched.text.wf = true ∧
    (∀ x : Word, (wLaunched.text.read x.toNat).isSome = true → (x - wLaunched.pc).toNat < 4 * 1) := by
  refine ⟨⟨_, rfl⟩, ⟨_, rfl⟩, ⟨_, rfl⟩, ⟨_, rfl⟩, by decide, fun x h => ?_⟩
  have e : wLaunched.pc = 0x8000#32 := rfl
  have t : wLaunched.text = [(0x8000, 0xED), (0x8001, 0x97), (0x8002, 0xC1), (0x8003, 0xF4)] := by decide
  rw [t] at h
  by_contra hx
  rw [e] at hx
  have h0 : ¬ 0x8000 = x.toNat := fun he => hx (by bv_omega)
  have h1 : ¬ 0x8001 = x.toNat := fun he => hx (by bv_omega)
  have h2 : ¬ 0x8002 = x.toNat := fun he => hx (by bv_omega)
  have h3 : ¬ 0x8003 = x.toNat := fun he => hx (by bv_omega)
  simp [Memory.read, h0, h1, h2, h3] at h
/-- The first two stores of P1. -/
theorem witness_RunAdvancesStraightLine :
    ∃ t, Sys2Proof.core.run 2 { st 0 0x1000 with text := (wordBytes .a32 0xF480030D ++ wordBytes .a32 0xF480032D).zipIdx.map fun p => (0x8000 + p.2, p.1) } =
      .next t ∧ t.pc = 0x8008#32 ∧ t.readR 0 = 0x1008#32 := ⟨_, rfl, by decide, by decide⟩
/-- F12, then the same instruction with the rule taken away. -/
theorem witness_ReexecutionAfterAbort :
    (∃ a t, exec (.a3PostImm 0 1 1 .single .bits128) { st 1 0x2000 with admitRules := abortAt 0x2008 } = .fault (.dataAbort a t)) ∧
    (∃ u, exec (.a3PostImm 0 1 1 .single .bits128) { st 1 0x2000 with admitRules := [] } = .next u) := ⟨⟨_, _, rfl⟩, ⟨_, rfl⟩⟩
theorem witness_MemWritePlacesBytes : 4 < 2 ^ 32 ∧ ¬ inBlock 0xFFFFFFFE 4 2 := by unfold inBlock; decide
theorem witness_MemReadAfterMemWrite : (4 = 1 ∨ 4 = 2 ∨ 4 = 4) := by decide
theorem witness_ElemSelectsLane : 7 < 64 / 8 ∧ 3 < 64 / 16 ∧ 1 < 64 / 32 ∧ 31 < 32 := by decide
/-- One state for each clause: the UNDEFINED checks (`ASEDIS`; `cp10` 0; `cp10` 1 at EL0; `EN` 0); `NSACR.NSASEDIS` and `NSACR.cp10`. -/
theorem witness_EnableSketchVerdicts_undefined :
    (∃ s : State, s.mode ≠ .hyp ∧ s.cpacr.getLsbD 31 = true) ∧
    (∃ s : State, s.mode ≠ .hyp ∧ s.cpacr.extractLsb' 20 2 = 0#2) ∧
    (∃ s : State, s.mode ≠ .hyp ∧ s.cpacr.extractLsb' 20 2 = 1#2 ∧ s.el = .el0) ∧
    (∃ s : State, s.mode ≠ .hyp ∧ s.fpexc.getLsbD 30 = false) ∧
    (∃ s : State, s.mode ≠ .hyp ∧ s.security = .nonSecure ∧ s.el3AArch32 = true ∧ s.nsacr.getLsbD 15 = true) ∧
    (∃ s : State, s.mode ≠ .hyp ∧ s.security = .nonSecure ∧ s.el3AArch32 = true ∧ s.nsacr.getLsbD 10 = false) :=
  ⟨⟨{ State.reset with cpacr := 0x80F00000 }, by decide⟩, ⟨{ State.reset with cpacr := 0 }, by decide⟩,
   ⟨{ State.reset with cpacr := 0x00500000, el := .el0 }, by decide⟩, ⟨{ State.reset with fpexc := 0 }, by decide⟩,
   ⟨{ State.reset with security := .nonSecure, el3AArch32 := true, nsacr := 0x8C00 }, by decide⟩,
   ⟨{ State.reset with security := .nonSecure, el3AArch32 := true, nsacr := 0x0800 }, by decide⟩⟩
/-- What leads past the UNDEFINED checks. -/
abbrev PastUndefinedChecks (s : State) : Prop :=
  s.mode ≠ .hyp ∧ s.cpacr.getLsbD 31 = false ∧ (s.cpacr.extractLsb' 20 2 = 3#2 ∨ (s.cpacr.extractLsb' 20 2 = 1#2 ∧ s.el ≠ .el0)) ∧
    s.fpexc.getLsbD 30 = true ∧ (s.security = .secure ∨ s.el3AArch32 = false ∨ (s.nsacr.getLsbD 15 = false ∧ s.nsacr.getLsbD 10 = true))
/-- The trap check: no trap; `TASE`; `TCP10`, Non-secure with EL3 using AArch32; and Hyp mode, where `NSACR` forces the trap. -/
theorem witness_EnableSketchVerdicts :
    (∃ s : State, PastUndefinedChecks s ∧ s.el2Enabled = false ∧ s.cpacr.extractLsb' 20 2 = 1#2) ∧
    (∃ s : State, PastUndefinedChecks s ∧ s.el2Enabled = true ∧ s.hcptr.getLsbD 15 = false ∧ s.hcptr.getLsbD 10 = false) ∧
    (∃ s : State, PastUndefinedChecks s ∧ s.el2Enabled = true ∧ s.hcptr.getLsbD 15 = true ∧ s.elOfMode ≠ .el3) ∧
    (∃ s : State, PastUndefinedChecks s ∧ s.el2Enabled = true ∧ s.hcptr.getLsbD 10 = true ∧ s.elOfMode ≠ .el3 ∧
      s.security = .nonSecure ∧ s.el3AArch32 = true) ∧
    (∃ s : State, s.mode = .hyp ∧ s.el2Enabled = true ∧ s.security = .nonSecure ∧ s.el3AArch32 = true ∧ s.nsacr.getLsbD 10 = false) ∧
    (∃ s : State, s.mode = .hyp ∧ s.el2Enabled = false) :=
  ⟨⟨{ State.reset with cpacr := 0x00500000, el2Enabled := false }, by decide⟩, ⟨{ State.reset with el2Enabled := true, hcptr := 0 }, by decide⟩,
   ⟨{ State.reset with el2Enabled := true, hcptr := 0x8000 }, by decide⟩,
   ⟨{ State.reset with el2Enabled := true, hcptr := 0x400, security := .nonSecure, el3AArch32 := true, nsacr := 0x400 }, by decide⟩,
   ⟨{ State.reset with mode := .hyp, el2Enabled := true, security := .nonSecure, el3AArch32 := true, nsacr := 0 }, by decide⟩,
   ⟨{ State.reset with mode := .hyp, el2Enabled := false }, by decide⟩⟩
theorem witness_AsedisDisablesStores :
    ∃ s : State, Stops wInstr wConsts s ∧ s.SettingsAgree ∧ s.mode ≠ .hyp ∧ s.cpacr.getLsbD 31 = true :=
  ⟨{ st 1 0x2000 with cpacr := 0x80F00000, advSIMDAccess := .undefined }, by decide, ⟨by decide, by decide⟩, by decide, by decide⟩

end Sys2Proof.Tests
end

section
/-!
PROOFS. The registers an outcome depends on and the registers it writes (10_state.md R23, R31). Both noninterference statements are
consequences of `vst4_corresponds`: the two states answer every test of the Operation alike, and their updates correspond.
-/

namespace Sys2Proof.Machine

/-! ### The states a store instruction leaves -/

/-- A fault leaves the state as it was, or with the stored block UNKNOWN (R147). -/
theorem exec_fault_left {i : Instr} {s : State} {f : Fault} (h : exec i s = .fault f) :
    f.left = s ∨ ∃ a len, f.left = s.drawBlock a len := by
  cases hi : consts? i with
  | none =>
    rw [exec_of_no_consts s hi] at h
    cases h
    exact .inl rfl
  | some c =>
    rw [exec_of_consts s hi] at h
    rcases vst4_cases (condOf i s) c s with ⟨_, e⟩ | ⟨_, _, e⟩ | ⟨_, _, _, e⟩ | ⟨_, _, _, _, e⟩ | ⟨_, _, _, _, e⟩ |
        ⟨_, _, _, _, _, e⟩ | ⟨_, _, _, _, _, e⟩ <;> rw [e] at h
    · cases h
    · rcases listPastEnd_cases c s with ⟨_, e⟩ | ⟨_, e⟩ | ⟨_, e⟩ | ⟨_, _, e⟩ | ⟨_, _, e⟩ <;> rw [e] at h <;> cases h
      exact .inl rfl
    · cases h
    · cases h; exact .inl rfl
    · cases h; exact .inl rfl
    · cases h; exact .inl rfl
    · rcases storeStructure_cases c (s.readR c.n) s with ⟨_, _, e⟩ | ⟨_, e⟩ | ⟨_, _, _, e⟩ | ⟨_, _, _, e⟩ <;>
        rw [e] at h <;> cases h
      · exact .inl rfl
      · exact .inr ⟨_, _, rfl⟩

/-- The updates that lead to a next state: the `pc` advance alone, the UNKNOWN draws (R121), or the completed store. -/
theorem exec_next_update {i : Instr} {c : DecodeConsts} {s t : State} (hi : consts? i = some c) (h : exec i s = .next t) :
    t = s.advancePc ∨ t = (s.drawUnknown c).advancePc ∨ t = s.complete c (s.readR c.n) := by
  obtain ⟨-, ⟨-, -, ht⟩ | ⟨-, -, -, ht⟩ | ⟨-, -, ht⟩ | ⟨-, -, -, -, -, -, -, ht⟩⟩ := (exec_next_iff s t hi).1 h
  · exact .inl ht
  · exact .inr (.inl ht)
  · exact .inl ht
  · exact .inr (.inr ht)

@[simp] theorem State.writeback_dreg (s : State) (c : DecodeConsts) : (s.writeback c).dreg = s.dreg := by
  unfold State.writeback
  split <;> rfl

@[simp] theorem State.complete_dreg (s : State) (c : DecodeConsts) (a : Word) : (s.complete c a).dreg = s.dreg := by
  simp [State.complete]

@[simp] theorem State.drawUnknown_dreg (s : State) (c : DecodeConsts) : (s.drawUnknown c).dreg = s.dreg := by
  unfold State.drawUnknown
  split <;> rfl

/-- No outcome writes a `D` register (R31). -/
theorem exec_leaves_dreg {i : Instr} {s t : State} (h : leaves (exec i s) t) : t.dreg = s.dreg := by
  rcases h with h | ⟨f, h, rfl⟩
  · cases hi : consts? i with
    | none => rw [exec_of_no_consts s hi] at h; cases h
    | some c => rcases exec_next_update hi h with rfl | rfl | rfl <;> simp
  · rcases exec_fault_left h with e | ⟨a, len, e⟩ <;> rw [e]
    exact State.drawBlock_dreg s a len

/-- A fault writes no general register. -/
theorem exec_fault_gpr {i : Instr} {s : State} {f : Fault} (h : exec i s = .fault f) : f.left.gpr = s.gpr := by
  rcases exec_fault_left h with e | ⟨a, len, e⟩ <;> rw [e]
  exact State.drawBlock_gpr s a len

/-- Without writeback a next state has the general registers of before (R65, R96). -/
theorem exec_next_gpr_of_no_wback {i : Instr} {c : DecodeConsts} {s t : State} (hi : consts? i = some c) (hw : c.wback = false)
    (h : exec i s = .next t) : t.gpr = s.gpr := by
  rcases exec_next_update hi h with rfl | rfl | rfl
  · exact State.advancePc_gpr s
  · simp [State.drawUnknown, hw]
  · simp [State.complete, State.writeback, hw]

/-- The numbers of the register list are distinct (R70). -/
theorem listReg_injective {i : Instr} {c : DecodeConsts} (h : consts? i = some c) {k k' : Nat}
    (e : c.listReg k = c.listReg k') : k = k' := by
  unfold DecodeConsts.listReg at e
  rcases consts_inc h with hinc | hinc <;> rw [hinc] at e <;> omega

/-! ### Other `D` registers -/

/-- The four stores take nothing from the state but data memory, the byte order and the four listed lanes (R95). -/
theorem storeElems_congr {s t : State} {c : DecodeConsts} (hmem : t.mem = s.mem) (hbe : t.bigEndianData = s.bigEndianData)
    (hlane : ∀ k < 4, t.storedElem c k = s.storedElem c k) (a : Word) : t.storeElems c a = s.storeElems c a := by
  simp only [State.storeElems, State.storeElem, hmem, hbe, hlane 0 (by decide), hlane 1 (by decide), hlane 2 (by decide),
    hlane 3 (by decide)]

/-- Replace the `D` registers. -/
def State.withD (file : Vector DWord 32) (s : State) : State := { s with dreg := file }

theorem State.writeback_withD (file : Vector DWord 32) (s : State) (c : DecodeConsts) :
    (s.withD file).writeback c = (s.writeback c).withD file := by
  unfold State.writeback
  split <;> rfl

theorem State.drawUnknown_withD (file : Vector DWord 32) (s : State) (c : DecodeConsts) :
    (s.withD file).drawUnknown c = (s.drawUnknown c).withD file := by
  unfold State.drawUnknown
  split <;> rfl

/-- Where the listed lanes agree, completing a store commutes with replacing the `D` registers. -/
theorem State.complete_withD {file : Vector DWord 32} {s : State} {c : DecodeConsts}
    (hlane : ∀ k < 4, (s.withD file).storedElem c k = s.storedElem c k) (a : Word) :
    (s.withD file).complete c a = (s.complete c a).withD file := by
  unfold State.complete
  rw [storeElems_congr (s := s) (t := s.withD file) rfl rfl hlane a]
  exact congrArg State.advancePc (State.writeback_withD file (s.setMem (s.storeElems c a)) c)

/-- Where the listed lanes agree, the states with either `D` registers correspond. -/
theorem corresponds_withD {file : Vector DWord 32} {s : State} {c : DecodeConsts}
    (hlane : ∀ k < 4, (s.withD file).storedElem c k = s.storedElem c k) :
    Corresponds (State.withD file) c s (s.withD file) where
  start := rfl
  base := rfl
  enable := rfl
  choice := rfl
  strict := rfl
  text := rfl
  refused := rfl
  record := rfl
  advance := rfl
  block := rfl
  unknown _ := congrArg State.advancePc (State.drawUnknown_withD file s c)
  complete _ := State.complete_withD hlane (s.readR c.n)

/-- With other `D` registers that agree on the listed lanes, the outcome is the same with those registers left (R31). -/
theorem exec_withD {i : Instr} {s : State} {file : Vector DWord 32}
    (hlane : ∀ c, consts? i = some c → ∀ k < 4, (s.withD file).storedElem c k = s.storedElem c k) :
    exec i (s.withD file) = mapResult (State.withD file) (exec i s) := by
  cases hi : consts? i with
  | none => rw [exec_of_no_consts _ hi, exec_of_no_consts _ hi]; rfl
  | some c =>
    rw [exec_of_consts _ hi, exec_of_consts _ hi]
    exact vst4_corresponds (corresponds_withD (hlane c hi)) rfl

/-- Settles O39: the correspondence of the states with either `D` registers, the frame of every outcome, and the spacing. -/
theorem onlyListedLanesAreRead : Obligations.OnlyListedLanesAreRead := fun _ _ _ hlane =>
  ⟨exec_withD hlane, fun _ => exec_leaves_dreg, fun _ hi _ _ _ _ e => listReg_injective hi e⟩

/-! ### Other general registers -/

/-- Writing back what a register holds changes nothing. -/
theorem State.writeR_readR_self (s : State) (i : RegNum) : s.writeR i (s.readR i) = s := by
  by_cases h : i.toNat < 15 <;> simp [State.writeR, State.readR, h]

/-- The state with `R[n]` kept and every other general register taken from `file`. -/
def State.withOtherR (file : Vector Word 15) (n : RegNum) (s : State) : State :=
  ({ s with gpr := file } : State).writeR n (s.readR n)

/-- A file that agrees on `R[n]` is the file with `R[n]` kept. -/
theorem State.withOtherR_of_agree {file : Vector Word 15} {n : RegNum} {s : State}
    (h : ({ s with gpr := file } : State).readR n = s.readR n) : s.withOtherR file n = { s with gpr := file } := by
  unfold State.withOtherR
  rw [← h]
  exact State.writeR_readR_self _ n

@[simp] theorem State.readR_withOtherR (file : Vector Word 15) (n : RegNum) (s : State) :
    (s.withOtherR file n).readR n = s.readR n := State.readR_writeR_same _ n _

theorem State.withOtherR_drawBlock (file : Vector Word 15) (n : RegNum) (s : State) (a : Word) (len : Nat) :
    (s.drawBlock a len).withOtherR file n = (s.withOtherR file n).drawBlock a len := rfl

theorem State.withOtherR_setMem (file : Vector Word 15) (n : RegNum) (s : State) (m : Memory) :
    (s.setMem m).withOtherR file n = (s.withOtherR file n).setMem m := rfl

theorem State.withOtherR_advancePc (file : Vector Word 15) (n : RegNum) (s : State) :
    s.advancePc.withOtherR file n = (s.withOtherR file n).advancePc := by
  by_cases h : n.toNat < 15 <;> simp [State.withOtherR, State.writeR, State.readR, State.advancePc, State.setPc, h]

theorem State.withOtherR_writeR (file : Vector Word 15) (n : RegNum) (s : State) (v : Word) :
    (s.writeR n v).withOtherR file n = (s.withOtherR file n).writeR n v := by
  by_cases h : n.toNat < 15 <;> simp [State.withOtherR, State.writeR, State.readR, h]

theorem State.withOtherR_drawR (file : Vector Word 15) (n : RegNum) (s : State) :
    (s.drawR n).withOtherR file n = (s.withOtherR file n).drawR n :=
  congrArg (fun t : State => { t with draws := s.draws + 1 }) (State.withOtherR_writeR file n s (Config.unknownWord s.draws))

theorem State.withOtherR_drawUnknown (file : Vector Word 15) (s : State) (c : DecodeConsts) :
    (s.drawUnknown c).withOtherR file c.n = (s.withOtherR file c.n).drawUnknown c := by
  unfold State.drawUnknown
  rw [State.readR_withOtherR]
  split
  · rw [State.withOtherR_drawR, State.withOtherR_drawBlock]
  · exact State.withOtherR_drawBlock file c.n s _ _

/-- The increment depends on `R[m]` only, and on that only in the register variant (R96). -/
theorem State.increment_congr {s t : State} {c : DecodeConsts} (h : c.m ≠ 15#4 ∧ c.m ≠ 13#4 → t.readR c.m = s.readR c.m) :
    t.increment c = s.increment c := by
  unfold State.increment
  split
  · rename_i hreg
    exact h (by simpa [DecodeConsts.registerIndex] using hreg)
  · rfl

theorem State.withOtherR_writeback {file : Vector Word 15} {s : State} {c : DecodeConsts}
    (hinc : (s.withOtherR file c.n).increment c = s.increment c) :
    (s.writeback c).withOtherR file c.n = (s.withOtherR file c.n).writeback c := by
  unfold State.writeback
  rw [State.readR_withOtherR, hinc]
  split
  · exact State.withOtherR_writeR file c.n s _
  · rfl

/-- Where the increment agrees, completing a store commutes with replacing the general registers other than `R[n]`. -/
theorem State.withOtherR_complete {file : Vector Word 15} {s : State} {c : DecodeConsts}
    (hinc : (s.withOtherR file c.n).increment c = s.increment c) (a : Word) :
    (s.complete c a).withOtherR file c.n = (s.withOtherR file c.n).complete c a := by
  unfold State.complete
  rw [storeElems_congr (s := s) (t := s.withOtherR file c.n) rfl rfl (fun _ _ => rfl) a, State.withOtherR_advancePc,
    ← State.withOtherR_setMem, State.withOtherR_writeback (s := s.setMem (s.storeElems c a)) hinc]

/-- Where the increment agrees, the state and the one with other general registers but the same `R[n]` correspond. -/
theorem corresponds_withOtherR {file : Vector Word 15} {s : State} {c : DecodeConsts}
    (hinc : (s.withOtherR file c.n).increment c = s.increment c) :
    Corresponds (State.withOtherR file c.n) c s (s.withOtherR file c.n) where
  start := rfl
  base := State.readR_withOtherR file c.n s
  enable := rfl
  choice := rfl
  strict := rfl
  text := rfl
  refused := rfl
  record := rfl
  advance := (State.withOtherR_advancePc file c.n s).symm
  block := rfl
  unknown _ := by rw [State.withOtherR_advancePc, State.withOtherR_drawUnknown]
  complete _ := (State.withOtherR_complete hinc (s.readR c.n)).symm

/-- With other general registers that agree on `R[n]`, and on `R[m]` in the register variant, the outcome is the same with those
registers and the same `R[n]` left (R23). -/
theorem exec_withOtherR {i : Instr} {c : DecodeConsts} {s : State} {file : Vector Word 15} (hi : consts? i = some c)
    (hbase : ({ s with gpr := file } : State).readR c.n = s.readR c.n)
    (hindex : c.m ≠ 15#4 ∧ c.m ≠ 13#4 → ({ s with gpr := file } : State).readR c.m = s.readR c.m) :
    exec i { s with gpr := file } = mapResult (State.withOtherR file c.n) (exec i s) := by
  have hstart := State.withOtherR_of_agree hbase
  have hinc : (s.withOtherR file c.n).increment c = s.increment c := by
    rw [hstart]
    exact State.increment_congr hindex
  have hcorr : Corresponds (State.withOtherR file c.n) c s { s with gpr := file } := hstart ▸ corresponds_withOtherR hinc
  rw [exec_of_consts _ hi, exec_of_consts _ hi]
  exact vst4_corresponds hcorr rfl

/-- Settles O40: the correspondence of the states with either general registers, and the frame of the outcomes without writeback. -/
theorem onlyBaseAndIndexAreRead : Obligations.OnlyBaseAndIndexAreRead := fun _ _ _ _ hi hbase hindex =>
  ⟨exec_withOtherR hi hbase hindex,
   fun hm _ => exec_next_gpr_of_no_wback hi (by simp [DecodeConsts.wback, hm]),
   fun _ => exec_fault_gpr⟩

end Sys2Proof.Machine
end

section
/-!
PROOFS. How `index_align` splits (30_encoding.md R66 to R68): the decode constants of what the fields select, for each `size` and in
either instruction set, and the bits those constants read.
-/

namespace Sys2Proof.Machine

/-! ### The bits of `index_align` -/

/-- `<align>` is given exactly when `index_align<0>` is set (R66, R67). -/
theorem alignBit_eq_getLsbD (ia : BitVec 4) : alignBit ia = ia.getLsbD 0 := (BitVec.getLsbD_eq_extractLsb' ia 0).symm

/-- `inc` of a spacing bit (R67, R68). -/
theorem incOf_spacingOf (ia : BitVec 4) (k : Nat) :
    incOf (spacingOf (ia.extractLsb' k 1)) = if ia.getLsbD k = false then 1 else 2 := by
  rw [spacingOf, ← BitVec.getLsbD_eq_extractLsb']
  cases ia.getLsbD k <;> rfl

/-! ### The decode constants of the row that the fields select -/

/-- The three size 8 variants have the constants of R66, `m` being `Rm` in each (R65). -/
theorem consts_decodeSize8 (set : InstrSet) (f : Fields) : consts? (decodeSize8 set f) =
    some (constsSize8 f.firstReg f.rn (f.indexAlign.extractLsb' 1 3) (alignBit f.indexAlign) f.rm) := by
  by_cases h15 : f.rm = 15#4
  · cases set <;> simp [decodeSize8, consts?, h15]
  by_cases h13 : f.rm = 13#4 <;> cases set <;> simp [decodeSize8, consts?, h15, h13]

/-- The three size 16 variants have the constants of R67, `m` being `Rm` in each (R65). -/
theorem consts_decodeSize16 (set : InstrSet) (f : Fields) : consts? (decodeSize16 set f) =
    some (constsSize16 f.firstReg f.rn (f.indexAlign.extractLsb' 2 2) (spacingOf (f.indexAlign.extractLsb' 1 1))
      (alignBit f.indexAlign) f.rm) := by
  by_cases h15 : f.rm = 15#4
  · cases set <;> simp [decodeSize16, consts?, h15]
  by_cases h13 : f.rm = 13#4 <;> cases set <;> simp [decodeSize16, consts?, h15, h13]

/-- The three size 32 variants have the constants of R68, `m` being `Rm` in each (R65). -/
theorem consts_decodeSize32 (set : InstrSet) (f : Fields) : consts? (decodeSize32 set f) =
    some (constsSize32 f.firstReg f.rn (f.indexAlign.extractLsb' 3 1) (spacingOf (f.indexAlign.extractLsb' 2 1))
      (align32Of (f.indexAlign.extractLsb' 0 2)) f.rm) := by
  by_cases h15 : f.rm = 15#4
  · cases set <;> simp [decodeSize32, consts?, h15]
  by_cases h13 : f.rm = 13#4 <;> cases set <;> simp [decodeSize32, consts?, h15, h13]

/-- The UNDEFINED pattern R71 (b) has no decode constants. -/
theorem consts_decodeUndefAlign (set : InstrSet) (f : Fields) : consts? (decodeUndefAlign set f) = none := by
  cases set <;> rfl

/-- `size == '00'` selects the size 8 rows (R64). -/
theorem instrOfFields_of_size8 (set : InstrSet) {f : Fields} (h : f.size = 0#2) : instrOfFields set f = decodeSize8 set f := by
  simp [instrOfFields, h]

/-- `size == '01'` selects the size 16 rows (R64). -/
theorem instrOfFields_of_size16 (set : InstrSet) {f : Fields} (h : f.size = 1#2) :
    instrOfFields set f = decodeSize16 set f := by
  simp [instrOfFields, h]

/-- `size == '10'` with the split `11` selects the UNDEFINED row (R68, R71). -/
theorem instrOfFields_of_undefAlign (set : InstrSet) {f : Fields} (h : f.size = 2#2)
    (hal : f.indexAlign.extractLsb' 0 2 = 3#2) : instrOfFields set f = decodeUndefAlign set f := by
  simp [instrOfFields, h, hal]

/-- `size == '10'` with any other split selects the size 32 rows (R64, R68). -/
theorem instrOfFields_of_size32 (set : InstrSet) {f : Fields} (h : f.size = 2#2)
    (hal : f.indexAlign.extractLsb' 0 2 ≠ 3#2) : instrOfFields set f = decodeSize32 set f := by
  simp [instrOfFields, h, hal]

/-! ### The split for each size -/

/-- The alignment of size 8 (R66). -/
theorem constsSize8_alignment_alignBit (d : BitVec 5) (n m : RegNum) (i : BitVec 3) (ia : BitVec 4) :
    (constsSize8 d n i (alignBit ia) m).alignment = if ia.getLsbD 0 = false then 1 else 4 := by
  rw [alignBit_eq_getLsbD, constsSize8]
  cases ia.getLsbD 0 <;> rfl

/-- The alignment of size 16 (R67). -/
theorem constsSize16_alignment_alignBit (d : BitVec 5) (n m : RegNum) (i : BitVec 2) (sp : Spacing) (ia : BitVec 4) :
    (constsSize16 d n i sp (alignBit ia) m).alignment = if ia.getLsbD 0 = false then 1 else 8 := by
  rw [alignBit_eq_getLsbD, constsSize16]
  cases ia.getLsbD 0 <;> rfl

/-- Settles O6: for each `size` the row the fields select, its decode constants, and what the bits of `index_align` give them. -/
theorem indexAlignSplitsBySize : Obligations.IndexAlignSplitsBySize := by
  intro set f
  refine ⟨fun h => ?size8, fun h => ?size16, fun h hal s => ?undefined, fun h hal => ?size32⟩
  case size8 =>
    rw [instrOfFields_of_size8 set h]
    exact ⟨_, consts_decodeSize8 set f, rfl, rfl, rfl, constsSize8_alignment_alignBit ..⟩
  case size16 =>
    rw [instrOfFields_of_size16 set h]
    exact ⟨_, consts_decodeSize16 set f, rfl, rfl, incOf_spacingOf f.indexAlign 1, constsSize16_alignment_alignBit ..⟩
  case undefined =>
    rw [instrOfFields_of_undefAlign set h hal]
    exact exec_of_no_consts s (consts_decodeUndefAlign set f)
  case size32 =>
    rw [instrOfFields_of_size32 set h hal]
    have halign {b : BitVec 2} (hb : f.indexAlign.extractLsb' 0 2 = b) :
        alignmentOf32 (align32Of (f.indexAlign.extractLsb' 0 2)) = alignmentOf32 (align32Of b) := by rw [hb]
    exact ⟨_, consts_decodeSize32 set f, rfl, rfl, incOf_spacingOf f.indexAlign 2, halign, halign, halign⟩

end Sys2Proof.Machine
end

section
/-!
PROOFS. Where the checked store stops and what it leaves when it completes (40_vst4_single_lane.md R93 to R96). Once the list ends at
or before `D31`, the base is not `R[15]` and the condition holds, the instruction is `checkedStore`; a next state is then the completed
store, whose effect is `StoreEffect`.
-/

namespace Sys2Proof.Machine

/-! ### The checked store -/

/-- An instruction that is not UNPREDICTABLE and whose condition holds is the checked store (R91 steps 4 to 9). -/
theorem exec_eq_checkedStore {i : Instr} {c : DecodeConsts} {s : State} (hi : consts? i = some c) (hn : c.n ≠ 15#4)
    (hd : c.d4 ≤ 31) (hc : s.conditionPassed (condOf i s) = true) : exec i s = checkedStore c s := by
  rw [exec_of_consts s hi]
  simp [vst4, hn, Nat.not_lt.2 hd, hc]

/-- The verdict `Undefined` ends the store before it looks at the base address (R93, R143). -/
theorem checkedStore_of_undefined {c : DecodeConsts} {s : State} (h : s.advSIMDAccess = .undefined) :
    checkedStore c s = .fault (.undefined s) := by
  simp [checkedStore, h, raise]

/-- The verdict `HypTrap` ends the store before it looks at the base address (R93, R143). -/
theorem checkedStore_of_hypTrap {c : DecodeConsts} {s : State} (h : s.advSIMDAccess = .hypTrap) :
    checkedStore c s = .fault (.hypTrap s) := by
  simp [checkedStore, h, raise]

/-- The verdict `Enabled` leads on to the test of the base address (R93, R94). -/
theorem checkedStore_of_enabled {c : DecodeConsts} {s : State} (h : s.advSIMDAccess = .enabled) :
    checkedStore c s = alignedStore c s := by
  simp [checkedStore, h]

/-- A base address that is no multiple of `alignment` faults in the state before (R94). -/
theorem alignedStore_of_misaligned {c : DecodeConsts} {s : State} (h : isAligned (s.readR c.n) c.alignment = false) :
    alignedStore c s = .fault (.alignmentFault (s.alignmentRecord (s.readR c.n)) s) := by
  simp [alignedStore, h, raise]

/-- A base address that is a multiple of `alignment` leads on to the four stores (R94, R95). -/
theorem alignedStore_of_aligned {c : DecodeConsts} {s : State} (h : isAligned (s.readR c.n) c.alignment = true) :
    alignedStore c s = storeStructure c (s.readR c.n) s := by
  simp [alignedStore, h]

/-- The faults of the four stores are Data Aborts (R145, R146). -/
theorem storeStructure_fault {c : DecodeConsts} {a : Word} {s : State} {f : Fault} (h : storeStructure c a s = .fault f) :
    (∃ r t, f = .alignmentFault r t) ∨ ∃ b t, f = .dataAbort b t := by
  rcases storeStructure_cases c a s with ⟨_, _, e⟩ | ⟨_, e⟩ | ⟨_, _, _, e⟩ | ⟨_, _, _, e⟩ <;> rw [e] at h <;> cases h
  · exact .inl ⟨_, _, rfl⟩
  · exact .inr ⟨_, _, rfl⟩

/-- Past the enable test every fault is a Data Abort (R144 to R146). -/
theorem alignedStore_fault {c : DecodeConsts} {s : State} {f : Fault} (h : alignedStore c s = .fault f) :
    (∃ r t, f = .alignmentFault r t) ∨ ∃ b t, f = .dataAbort b t := by
  cases hal : isAligned (s.readR c.n) c.alignment with
  | true => exact storeStructure_fault (alignedStore_of_aligned hal ▸ h)
  | false =>
    rw [alignedStore_of_misaligned hal] at h
    cases h
    exact .inl ⟨_, _, rfl⟩

/-- The record of an alignment fault, written out (R47, R144). -/
theorem alignmentRecord_eq (s : State) (a : Word) : s.alignmentRecord a =
    { accdesc := { op := .store, nontemporal := false, tagchecked := false, privileged := decide (s.el ≠ .el0) },
      vaddress := BitVec.ofNat 64 a.toNat } := by
  have hpriv : s.privileged = decide (s.el ≠ .el0) := by cases h : s.el <;> simp [State.privileged, h]
  simp only [State.alignmentRecord, State.accessDesc, hpriv, BitVec.ofNat_toNat]

/-- Settles O27: the instruction is the checked store, and past the enable test every fault is a Data Abort. -/
theorem enableVerdictDecides : Obligations.EnableVerdictDecides := by
  intro i c s hi hn hd hc
  rw [exec_eq_checkedStore hi hn hd hc]
  refine ⟨checkedStore_of_undefined, checkedStore_of_hypTrap, fun hen t => ?_⟩
  rw [checkedStore_of_enabled hen]
  constructor <;> intro h <;> rcases alignedStore_fault h with ⟨_, _, e⟩ | ⟨_, _, e⟩ <;> cases e

/-- Settles O28: the enabled store looks at the base address first, and the record it raises is the store's. -/
theorem misalignedBaseFaults : Obligations.MisalignedBaseFaults := by
  intro i c s hi hn hd hc hen hmis
  rw [exec_eq_checkedStore hi hn hd hc, checkedStore_of_enabled hen,
    alignedStore_of_misaligned ((isAligned_eq_false _ _).2 hmis), alignmentRecord_eq]

/-! ### The completed store -/

/-- A next state of an instruction whose list ends at or before `D31` and whose condition holds is the completed store, with all four
elements admitted (R91, R96). -/
theorem exec_next_completed {i : Instr} {c : DecodeConsts} {s t : State} (hi : consts? i = some c) (hd : c.d4 ≤ 31)
    (hc : s.conditionPassed (condOf i s) = true) (h : exec i s = .next t) :
    c.n ≠ 15#4 ∧ s.firstRefused (s.readR c.n) c.ebytes = none ∧ t = s.complete c (s.readR c.n) := by
  obtain ⟨hn, ⟨hpast, -⟩ | ⟨hpast, -⟩ | ⟨-, hfail, -⟩ | ⟨-, -, -, -, -, -, hadm, ht⟩⟩ := (exec_next_iff s t hi).1 h
  · exact absurd hd (Nat.not_le.2 hpast)
  · exact absurd hd (Nat.not_le.2 hpast)
  · rw [hc] at hfail; cases hfail
  · exact ⟨hn, hadm, ht⟩

/-- The four elements fit the address space (R15, R47). -/
theorem transferBytes_lt {i : Instr} {c : DecodeConsts} (hi : consts? i = some c) : 4 * c.ebytes < 2 ^ 32 := by
  have := consts_ebytes hi
  omega

/-- What writeback leaves in `R[n]`, by the variant that `m` selects (R65, R96). -/
theorem writeback_readR_base_of_m (s : State) (c : DecodeConsts) : (s.writeback c).readR c.n =
    if c.m = 15#4 then s.readR c.n
    else if c.m = 13#4 then s.readR c.n + BitVec.ofNat 32 (4 * c.ebytes)
    else s.readR c.n + s.readR c.m := by
  rw [writeback_readR_base]
  by_cases h15 : c.m = 15#4
  · simp [DecodeConsts.wback, h15]
  by_cases h13 : c.m = 13#4 <;>
    simp [DecodeConsts.wback, State.increment, DecodeConsts.registerIndex, DecodeConsts.transferBytes, h15, h13]

/-- Completing a store at `R[n]` has the effect that R95 to R97 and R123 give. -/
theorem complete_storeEffect (s : State) {c : DecodeConsts} (hn : c.n ≠ 15#4) (he : 4 * c.ebytes < 2 ^ 32) :
    StoreEffect c s (s.complete c (s.readR c.n)) where
  stored k hk j hj := by
    rw [complete_mem, storeElems_read_in s c _ k j he hk hj, orderedByte_storedElem s c _ k j hj]
  memFrame x hx := by
    rw [complete_mem, storeElems_read_out s c _ x he (Nat.not_lt.1 hx)]
  base := by
    rw [State.complete, State.readR_advancePc _ hn, writeback_readR_base_of_m]
    simp only [State.readR_setMem]
  regFrame r hr hr15 := by
    rw [State.complete, State.readR_advancePc _ hr15, writeback_readR_other _ c hn hr, State.readR_setMem]
  pc := complete_pc s c _ hn
  frame := by
    rw [complete_pc s c _ hn, complete_mem]
    exact complete_eq s c _ hn

/-- Settles O15: the bytes and the memory frame of the effect of the completed store. -/
theorem completedStoreWroteElements : Obligations.CompletedStoreWroteElements := by
  intro i c s t hi hd hc h
  obtain ⟨hn, -, rfl⟩ := exec_next_completed hi hd hc h
  have heff := complete_storeEffect s hn (transferBytes_lt hi)
  refine ⟨fun hle k hk j hj => ?_, fun hbe k hk j hj => ?_, heff.memFrame⟩
  · simpa only [hle, Bool.false_eq_true, if_false] using heff.stored k hk j hj
  · simpa only [hbe, if_true] using heff.stored k hk j hj

/-- Settles O25: the base register in the effect of the completed store, and the frame of the other outcomes. -/
theorem writebackAddsIncrement : Obligations.WritebackAddsIncrement := by
  intro i c s hi _ hd hc
  refine ⟨fun t h => ?_, fun f => exec_fault_gpr⟩
  obtain ⟨hn, hadm, ht⟩ := exec_next_completed hi hd hc h
  have hbase : t.readR c.n = _ := ht ▸ (complete_storeEffect s hn (transferBytes_lt hi)).base
  refine ⟨fun h15 h13 => ?register, fun h13 => ?immediate, fun h15 => ?offset, fun k hk => ?admitted⟩
  case register =>
    rw [hbase, if_neg h15, if_neg h13, BitVec.toNat_add]
  case immediate =>
    rw [hbase, if_neg (by simp [h13]), if_pos h13, BitVec.toNat_add, BitVec.toNat_ofNat, Nat.add_mod_mod]
  case offset =>
    exact exec_next_gpr_of_no_wback hi (by simp [DecodeConsts.wback, h15]) h
  case admitted =>
    exact (elementAdmitted_iff s _ c.ebytes k).1 ((firstRefused_none s _ c.ebytes).1 hadm k hk)

end Sys2Proof.Machine
end

section
/-!
PROOFS. The UNDEFINED encodings (60_exceptions.md R141): `size` and `index_align` alone select them. They are the rows without decode
constants, and a row without decode constants ends with the outcome `Undefined` in every state (`exec_of_no_consts`).
-/

namespace Sys2Proof.Machine

/-- The UNDEFINED pattern R71 (a) has no decode constants. -/
theorem consts_decodeUndefSize (set : InstrSet) (f : Fields) : consts? (decodeUndefSize set f) = none := by
  cases set <;> rfl

/-- `size == '11'` selects the UNDEFINED row (R71). -/
theorem instrOfFields_of_undefSize (set : InstrSet) {f : Fields} (h : f.size = 3#2) :
    instrOfFields set f = decodeUndefSize set f := by
  simp [instrOfFields, h]

/-- The values of the field `size` (R64). -/
theorem size_cases : ∀ b : BitVec 2, b = 0#2 ∨ b = 1#2 ∨ b = 2#2 ∨ b = 3#2 := by decide

/-- `size` and `index_align<1:0>` alone say whether the row selected is UNDEFINED (R71, R141). -/
theorem consts_instrOfFields_eq_none_iff (set : InstrSet) (f : Fields) : consts? (instrOfFields set f) = none ↔
    f.size = 3#2 ∨ (f.size = 2#2 ∧ f.indexAlign.extractLsb' 0 2 = 3#2) := by
  rcases size_cases f.size with h | h | h | h
  · simp [instrOfFields_of_size8 set h, consts_decodeSize8, h]
  · simp [instrOfFields_of_size16 set h, consts_decodeSize16, h]
  · by_cases hal : f.indexAlign.extractLsb' 0 2 = 3#2
    · simp [instrOfFields_of_undefAlign set h hal, consts_decodeUndefAlign, h, hal]
    · simp [instrOfFields_of_size32 set h hal, consts_decodeSize32, h, hal]
  · simp [instrOfFields_of_undefSize set h, consts_decodeUndefSize, h]

/-- Settles O4: the UNDEFINED rows are the ones without decode constants, and those are selected by `size` and `index_align<1:0>`. -/
theorem undefinedRowsAlwaysFault : Obligations.UndefinedRowsAlwaysFault := by
  refine ⟨fun d n m ia4 ia2 s => ?rows, fun set f => ⟨fun hundef s => ?undefined, fun hstore => ?store⟩⟩
  case rows =>
    exact ⟨exec_of_no_consts s rfl, exec_of_no_consts s rfl, exec_of_no_consts s rfl, exec_of_no_consts s rfl⟩
  case undefined =>
    exact exec_of_no_consts s ((consts_instrOfFields_eq_none_iff set f).2 hundef)
  case store =>
    exact Option.ne_none_iff_exists'.1 (mt (consts_instrOfFields_eq_none_iff set f).1 hstore)

end Sys2Proof.Machine
end

section
/-!
PROOFS. Encoding (30_encoding.md sections 1 to 5): the fields of an instruction and the instruction of fields undo each other. With the
packing laws of Laws/Decode.lean this gives both round trips, over words, bytes and table values; the assembler's fields are those of
the encoder, so its round trip is the same one.
-/

namespace Sys2Proof

/-! ### The operands read back from their fields -/

section OperandsRead

variable (d : BitVec 5) (n m : RegNum)

/-- Splitting `D:Vd` and joining it again (R70). -/
theorem append_split_firstReg : d.extractLsb' 4 1 ++ d.extractLsb' 0 4 = d := BitVec.extractLsb'_append_extractLsb'

@[simp] theorem firstReg_fieldsSize8 (i : BitVec 3) (al : Bool) : (fieldsSize8 d n i al m).firstReg = d := append_split_firstReg d
@[simp] theorem firstReg_fieldsSize16 (i : BitVec 2) (sp : Spacing) (al : Bool) : (fieldsSize16 d n i sp al m).firstReg = d :=
  append_split_firstReg d
@[simp] theorem firstReg_fieldsSize32 (i : BitVec 1) (sp : Spacing) (al : Align32) : (fieldsSize32 d n i sp al m).firstReg = d :=
  append_split_firstReg d
@[simp] theorem firstReg_fieldsUndefSize (ia : BitVec 4) : (fieldsUndefSize d n ia m).firstReg = d := append_split_firstReg d
@[simp] theorem firstReg_fieldsUndefAlign (ia : BitVec 2) : (fieldsUndefAlign d n ia m).firstReg = d := append_split_firstReg d

@[simp] theorem rn_fieldsSize8 (i : BitVec 3) (al : Bool) : (fieldsSize8 d n i al m).rn = n := rfl
@[simp] theorem rn_fieldsSize16 (i : BitVec 2) (sp : Spacing) (al : Bool) : (fieldsSize16 d n i sp al m).rn = n := rfl
@[simp] theorem rn_fieldsSize32 (i : BitVec 1) (sp : Spacing) (al : Align32) : (fieldsSize32 d n i sp al m).rn = n := rfl
@[simp] theorem rn_fieldsUndefSize (ia : BitVec 4) : (fieldsUndefSize d n ia m).rn = n := rfl
@[simp] theorem rn_fieldsUndefAlign (ia : BitVec 2) : (fieldsUndefAlign d n ia m).rn = n := rfl

@[simp] theorem rm_fieldsSize8 (i : BitVec 3) (al : Bool) : (fieldsSize8 d n i al m).rm = m := rfl
@[simp] theorem rm_fieldsSize16 (i : BitVec 2) (sp : Spacing) (al : Bool) : (fieldsSize16 d n i sp al m).rm = m := rfl
@[simp] theorem rm_fieldsSize32 (i : BitVec 1) (sp : Spacing) (al : Align32) : (fieldsSize32 d n i sp al m).rm = m := rfl
@[simp] theorem rm_fieldsUndefSize (ia : BitVec 4) : (fieldsUndefSize d n ia m).rm = m := rfl
@[simp] theorem rm_fieldsUndefAlign (ia : BitVec 2) : (fieldsUndefAlign d n ia m).rm = m := rfl

@[simp] theorem indexAlign_fieldsUndefSize (ia : BitVec 4) : (fieldsUndefSize d n ia m).indexAlign = ia := rfl

/-- `index_align = iii:a` (R66). -/
@[simp] theorem lane_fieldsSize8 (i : BitVec 3) (al : Bool) : (fieldsSize8 d n i al m).indexAlign.extractLsb' 1 3 = i := by
  simp only [fieldsSize8]; revert i al; decide
@[simp] theorem align_fieldsSize8 (i : BitVec 3) (al : Bool) : alignBit (fieldsSize8 d n i al m).indexAlign = al := by
  simp only [fieldsSize8]; revert i al; decide

/-- `index_align = ii:s:a` (R67). -/
@[simp] theorem lane_fieldsSize16 (i : BitVec 2) (sp : Spacing) (al : Bool) :
    (fieldsSize16 d n i sp al m).indexAlign.extractLsb' 2 2 = i := by
  simp only [fieldsSize16]; revert i al; cases sp <;> decide
@[simp] theorem spacing_fieldsSize16 (i : BitVec 2) (sp : Spacing) (al : Bool) :
    spacingOf ((fieldsSize16 d n i sp al m).indexAlign.extractLsb' 1 1) = sp := by
  simp only [fieldsSize16]; revert i al; cases sp <;> decide
@[simp] theorem align_fieldsSize16 (i : BitVec 2) (sp : Spacing) (al : Bool) :
    alignBit (fieldsSize16 d n i sp al m).indexAlign = al := by
  simp only [fieldsSize16]; revert i al; cases sp <;> decide

/-- `index_align = i:s:aa` (R68), `aa` being the two bits of `<align>`, which are not `11`. -/
@[simp] theorem lane_fieldsSize32 (i : BitVec 1) (sp : Spacing) (al : Align32) :
    (fieldsSize32 d n i sp al m).indexAlign.extractLsb' 3 1 = i := by
  simp only [fieldsSize32]; revert i; cases sp <;> cases al <;> decide
@[simp] theorem spacing_fieldsSize32 (i : BitVec 1) (sp : Spacing) (al : Align32) :
    spacingOf ((fieldsSize32 d n i sp al m).indexAlign.extractLsb' 2 1) = sp := by
  simp only [fieldsSize32]; revert i; cases sp <;> cases al <;> decide
@[simp] theorem alignBits_fieldsSize32 (i : BitVec 1) (sp : Spacing) (al : Align32) :
    (fieldsSize32 d n i sp al m).indexAlign.extractLsb' 0 2 = bitsOfAlign32 al := by
  simp only [fieldsSize32]; revert i; cases sp <;> cases al <;> decide
@[simp] theorem align32Of_bitsOfAlign32 (al : Align32) : align32Of (bitsOfAlign32 al) = al := by cases al <;> rfl
theorem bitsOfAlign32_ne (al : Align32) : bitsOfAlign32 al ≠ 3#2 := by cases al <;> decide

/-- `index_align = xx:11` (R71 (b)). -/
@[simp] theorem indexAlign_fieldsUndefAlign (ia : BitVec 2) : (fieldsUndefAlign d n ia m).indexAlign.extractLsb' 2 2 = ia := by
  simp only [fieldsUndefAlign]; revert ia; decide

end OperandsRead

/-! ### The instruction of an instruction's fields -/

section InstrOfFields

open Machine

variable (set : InstrSet) (d : BitVec 5) (n m : RegNum)

/-- The fields the encoder makes select their own row (R64, R71). -/
@[simp] theorem instrOfFields_fieldsSize8 (i : BitVec 3) (al : Bool) :
    instrOfFields set (fieldsSize8 d n i al m) = decodeSize8 set (fieldsSize8 d n i al m) := instrOfFields_of_size8 set rfl
@[simp] theorem instrOfFields_fieldsSize16 (i : BitVec 2) (sp : Spacing) (al : Bool) :
    instrOfFields set (fieldsSize16 d n i sp al m) = decodeSize16 set (fieldsSize16 d n i sp al m) := instrOfFields_of_size16 set rfl
@[simp] theorem instrOfFields_fieldsSize32 (i : BitVec 1) (sp : Spacing) (al : Align32) :
    instrOfFields set (fieldsSize32 d n i sp al m) = decodeSize32 set (fieldsSize32 d n i sp al m) :=
  instrOfFields_of_size32 set rfl (by simpa using bitsOfAlign32_ne al)
@[simp] theorem instrOfFields_fieldsUndefSize (ia : BitVec 4) :
    instrOfFields set (fieldsUndefSize d n ia m) = decodeUndefSize set (fieldsUndefSize d n ia m) := instrOfFields_of_undefSize set rfl
@[simp] theorem instrOfFields_fieldsUndefAlign (ia : BitVec 2) :
    instrOfFields set (fieldsUndefAlign d n ia m) = decodeUndefAlign set (fieldsUndefAlign d n ia m) :=
  instrOfFields_of_undefAlign set rfl (Laws.undefAlign_low d n ia m)

/-- An index register is one that selects the Post-indexed (register) form (R65, R80). -/
theorem isIndexReg_iff : isIndexReg m = true ↔ m ≠ 13#4 ∧ m ≠ 15#4 := by simp [isIndexReg]

/-- The fields of a well-formed instruction select it (R64, R65, R71). -/
theorem instrOfFields_fieldsOf {i : Instr} (h : WellFormed i = true) : instrOfFields i.instrSet (fieldsOf i) = i := by
  cases i <;> simp only [WellFormed, isIndexReg_iff] at h <;>
    simp [fieldsOf, Instr.instrSet, decodeSize8, decodeSize16, decodeSize32, decodeUndefSize, decodeUndefAlign, h]

end InstrOfFields

/-! ### The fields of the instruction of fields -/

section FieldsOfInstr

variable (set : InstrSet) (f : Fields)

/-- Splitting a joined `D:Vd` gives its two fields (R70). -/
theorem split_firstReg : f.firstReg.extractLsb' 4 1 = f.dHigh ∧ f.firstReg.extractLsb' 0 4 = f.vd :=
  ⟨BitVec.extractLsb'_append_eq_left, BitVec.extractLsb'_append_eq_right⟩

/-- `index_align` is what its parts make again, for each size (R66 to R68, R71 (b)). -/
theorem indexAlign8_join : ∀ ia : BitVec 4, ia.extractLsb' 1 3 ++ bitOfAlign (alignBit ia) = ia := by decide
theorem indexAlign16_join : ∀ ia : BitVec 4,
    ia.extractLsb' 2 2 ++ bitOfSpacing (spacingOf (ia.extractLsb' 1 1)) ++ bitOfAlign (alignBit ia) = ia := by decide
theorem indexAlign32_join : ∀ ia : BitVec 4, ia.extractLsb' 0 2 ≠ 3#2 →
    ia.extractLsb' 3 1 ++ bitOfSpacing (spacingOf (ia.extractLsb' 2 1)) ++ bitsOfAlign32 (align32Of (ia.extractLsb' 0 2)) = ia := by
  decide
theorem indexAlignUndef_join : ∀ ia : BitVec 4, ia.extractLsb' 0 2 = 3#2 → ia.extractLsb' 2 2 ++ 3#2 = ia := by decide

/-- The three variants of size 8 are well formed and have one layout: `Rm` is 15, 13 or the index register (R65, R66). -/
theorem decodeSize8_spec : (decodeSize8 set f).instrSet = set ∧ WellFormed (decodeSize8 set f) = true ∧ fieldsOf (decodeSize8 set f) =
    fieldsSize8 f.firstReg f.rn (f.indexAlign.extractLsb' 1 3) (alignBit f.indexAlign) f.rm := by
  by_cases h15 : f.rm = 15#4
  · cases set <;> simp [decodeSize8, Instr.instrSet, WellFormed, fieldsOf, h15]
  by_cases h13 : f.rm = 13#4 <;> cases set <;>
    simp [decodeSize8, Instr.instrSet, WellFormed, isIndexReg_iff, fieldsOf, h15, h13]

/-- The three variants of size 16 are well formed and have one layout (R65, R67). -/
theorem decodeSize16_spec : (decodeSize16 set f).instrSet = set ∧ WellFormed (decodeSize16 set f) = true ∧
    fieldsOf (decodeSize16 set f) = fieldsSize16 f.firstReg f.rn (f.indexAlign.extractLsb' 2 2)
      (spacingOf (f.indexAlign.extractLsb' 1 1)) (alignBit f.indexAlign) f.rm := by
  by_cases h15 : f.rm = 15#4
  · cases set <;> simp [decodeSize16, Instr.instrSet, WellFormed, fieldsOf, h15]
  by_cases h13 : f.rm = 13#4 <;> cases set <;>
    simp [decodeSize16, Instr.instrSet, WellFormed, isIndexReg_iff, fieldsOf, h15, h13]

/-- The three variants of size 32 are well formed and have one layout (R65, R68). -/
theorem decodeSize32_spec : (decodeSize32 set f).instrSet = set ∧ WellFormed (decodeSize32 set f) = true ∧
    fieldsOf (decodeSize32 set f) = fieldsSize32 f.firstReg f.rn (f.indexAlign.extractLsb' 3 1)
      (spacingOf (f.indexAlign.extractLsb' 2 1)) (align32Of (f.indexAlign.extractLsb' 0 2)) f.rm := by
  by_cases h15 : f.rm = 15#4
  · cases set <;> simp [decodeSize32, Instr.instrSet, WellFormed, fieldsOf, h15]
  by_cases h13 : f.rm = 13#4 <;> cases set <;>
    simp [decodeSize32, Instr.instrSet, WellFormed, isIndexReg_iff, fieldsOf, h15, h13]

/-- What the fields select is a well-formed instruction of the set, and its fields are those fields: none is dropped (R64 to R71, R80). -/
theorem instrOfFields_spec : (instrOfFields set f).instrSet = set ∧ WellFormed (instrOfFields set f) = true ∧
    fieldsOf (instrOfFields set f) = f := by
  obtain ⟨hD, hVd⟩ := split_firstReg f
  rcases Machine.size_cases f.size with h | h | h | h
  · obtain ⟨hset, hwf, hfields⟩ := decodeSize8_spec set f
    rw [Machine.instrOfFields_of_size8 set h]
    exact ⟨hset, hwf, hfields.trans (Fields.ext_of_eq hD rfl hVd h.symm (indexAlign8_join _) rfl)⟩
  · obtain ⟨hset, hwf, hfields⟩ := decodeSize16_spec set f
    rw [Machine.instrOfFields_of_size16 set h]
    exact ⟨hset, hwf, hfields.trans (Fields.ext_of_eq hD rfl hVd h.symm (indexAlign16_join _) rfl)⟩
  · by_cases hal : f.indexAlign.extractLsb' 0 2 = 3#2
    · rw [Machine.instrOfFields_of_undefAlign set h hal]
      cases set <;> exact ⟨rfl, rfl, Fields.ext_of_eq hD rfl hVd h.symm (indexAlignUndef_join _ hal) rfl⟩
    · obtain ⟨hset, hwf, hfields⟩ := decodeSize32_spec set f
      rw [Machine.instrOfFields_of_size32 set h hal]
      exact ⟨hset, hwf, hfields.trans (Fields.ext_of_eq hD rfl hVd h.symm (indexAlign32_join _ hal) rfl)⟩
  · rw [Machine.instrOfFields_of_undefSize set h]
    cases set <;> exact ⟨rfl, rfl, Fields.ext_of_eq hD rfl hVd h.symm rfl rfl⟩

end FieldsOfInstr

/-! ### Words and bytes -/

/-- The word of a well-formed instruction decodes to it (R81). -/
theorem decodeWord_encode {i : Instr} (h : WellFormed i = true) : decodeWord i.instrSet (encode i) = .ok i := by
  rw [encode, decodeWord, packFields_space, unpackFields_packFields, instrOfFields_fieldsOf h]
  simp

/-- A word that decodes lies in the opcode space and gives the instruction its fields select (R81). -/
theorem decodeWord_ok_iff {set : InstrSet} {w : Word} {i : Instr} :
    decodeWord set w = .ok i ↔ w &&& spaceMask = spaceMatch set ∧ i = instrOfFields set (unpackFields w) := by
  rcases decodeWord_cases set w with ⟨hs, e⟩ | ⟨hs, e⟩ <;> simp [e, hs, eq_comm]

/-- The bytes of a word that decodes decode, whatever stands behind them (R43, R60). -/
theorem decode_wordBytes {set : InstrSet} {w : Word} {i : Instr} (h : decodeWord set w = .ok i) (rest : List Byte) :
    decode set (wordBytes set w ++ rest) = .ok (i, rest) := by
  cases set with
  | a32 => simp [decode, decodeA32, wordBytes, leWord_wordBytes, h]
  | t32 =>
    have hwide := startsWideT32_of_space w (decodeWord_ok_iff.1 h).1
    simp [decode, decodeT32, wordBytes, halfPair_wordBytes, hwide, h]

/-- A number below `2^32` numbers its own table value. -/
theorem tableValue_toNat (w : Word) : tableValue 32 w.toNat = w := by
  simp [tableValue, Nat.mod_eq_of_lt w.isLt]

/-- The value of a word of an instruction set belongs to that set (R61, R62). -/
theorem tableSet_of_space {set : InstrSet} {w : Word} (h : w &&& spaceMask = spaceMatch set) : tableSet w = set := by
  cases set <;> simp [tableSet, h, spaceMatch]

@[simp] theorem tableSet_encode (i : Instr) : tableSet (encode i) = i.instrSet := tableSet_of_space (packFields_space _ _)

/-- Settles O1: packing and unpacking undo each other, the fields of a well-formed instruction select it, and its bytes give its word. -/
theorem decodeReadsEncodedInstr : Obligations.DecodeReadsEncodedInstr := by
  intro i hwf
  have hbytes := decode_wordBytes (decodeWord_encode hwf)
  refine ⟨decodeWord_encode hwf, hbytes, ?_⟩
  have htable := hbytes []
  rw [List.append_nil] at htable
  rw [decodeTableWord, tableValue_toNat, tableSet_encode, htable]

/-- Settles O2: a word of the opcode space is the packing of its fields, and those are the fields of what they select. -/
theorem encodeRestoresDecodedWord : Obligations.EncodeRestoresDecodedWord := by
  intro set w i h
  obtain ⟨hspace, rfl⟩ := decodeWord_ok_iff.1 h
  obtain ⟨hset, hwf, hfields⟩ := instrOfFields_spec set (unpackFields w)
  refine ⟨hset, hwf, ?_⟩
  rw [encode, hset, hfields, packFields_unpackFields set w hspace]

end Sys2Proof
end

section
/-!
PROOFS. Words of the opcode space (30_encoding.md sections 2 to 5): the UNDEFINED patterns, the decode constants that the bits of a word
give, the byte order of fetch, and the assembler's way from an instruction's text back to it.
-/

namespace Sys2Proof

open Machine

/-! ### Bits under a mask -/

/-- A word with given bits under a mask has given bits under every smaller mask. -/
theorem and_of_and_eq {w mask bits small : Word} (h : w &&& mask = bits) (hsub : mask &&& small = small) :
    w &&& small = bits &&& small := by
  rw [← h, BitVec.and_assoc, hsub]

/-- A field that lies under a mask is the field of the masked word. -/
theorem extractLsb'_of_and_eq {w mask bits : Word} (h : w &&& mask = bits) {start len : Nat}
    (hmask : mask.extractLsb' start len = BitVec.allOnes len) : w.extractLsb' start len = bits.extractLsb' start len := by
  rw [← h, BitVec.extractLsb'_and, hmask, BitVec.and_allOnes]

/-- A slice of a slice is a slice. -/
theorem extractLsb'_extractLsb' {v : Nat} (x : BitVec v) (off : Nat) {start len width : Nat} (h : start + len ≤ width) :
    (x.extractLsb' off width).extractLsb' start len = x.extractLsb' (off + start) len := by
  ext k hk
  simp [show start + k < width by omega, Nat.add_assoc]

/-- Part of `index_align` is part of the word (R61, R62). -/
theorem indexAlign_extractLsb' (w : Word) {start len : Nat} (h : start + len ≤ 4) :
    (unpackFields w).indexAlign.extractLsb' start len = w.extractLsb' (4 + start) len := extractLsb'_extractLsb' w 4 h

/-- A bit of `index_align` is a bit of the word (R61, R62). -/
theorem indexAlign_getLsbD (w : Word) {k : Nat} (h : k < 4) : (unpackFields w).indexAlign.getLsbD k = w.getLsbD (4 + k) := by
  simp [unpackFields, h]

/-! ### The UNDEFINED patterns -/

/-- A word of the pattern R71 (a) is in the opcode space, and its `size` is `11`. -/
theorem undefSize_pattern {set : InstrSet} {w : Word}
    (h : w &&& 0xFFB00F00#32 = (match set with | .a32 => 0xF4800F00#32 | .t32 => 0xF9800F00#32)) :
    w &&& spaceMask = spaceMatch set ∧ (unpackFields w).size = 3#2 := by
  refine ⟨(and_of_and_eq h (by decide)).trans ?_, (extractLsb'_of_and_eq h (by decide)).trans ?_⟩ <;> cases set <;> rfl

/-- A word of the pattern R71 (b) is in the opcode space, its `size` is `10` and its `index_align<1:0>` is `11`. -/
theorem undefAlign_pattern {set : InstrSet} {w : Word}
    (h : w &&& 0xFFB00F30#32 = (match set with | .a32 => 0xF4800B30#32 | .t32 => 0xF9800B30#32)) :
    w &&& spaceMask = spaceMatch set ∧ (unpackFields w).size = 2#2 ∧ (unpackFields w).indexAlign.extractLsb' 0 2 = 3#2 := by
  refine ⟨(and_of_and_eq h (by decide)).trans ?_, (extractLsb'_of_and_eq h (by decide)).trans ?_, ?_⟩
  · cases set <;> rfl
  · cases set <;> rfl
  · rw [indexAlign_extractLsb' w (by decide)]
    refine (extractLsb'_of_and_eq h (by decide)).trans ?_
    cases set <;> rfl

/-- Settles O3: the patterns are in the opcode space and have the fields that select a row without decode constants. -/
theorem undefinedPatternsFault : Obligations.UndefinedPatternsFault := by
  intro set w s h
  have hrow : w &&& spaceMask = spaceMatch set ∧ consts? (instrOfFields set (unpackFields w)) = none := by
    rcases h with h | h
    · exact ⟨(undefSize_pattern h).1, (consts_instrOfFields_eq_none_iff set _).2 (.inl (undefSize_pattern h).2)⟩
    · exact ⟨(undefAlign_pattern h).1, (consts_instrOfFields_eq_none_iff set _).2 (.inr (undefAlign_pattern h).2)⟩
  exact ⟨_, decodeWord_ok_iff.2 ⟨hrow.1, rfl⟩, exec_of_no_consts s hrow.2⟩

/-! ### Decode constants from the bits of a word -/

/-- `d = UInt(D:Vd)` (R70). -/
theorem firstReg_unpackFields_toNat (w : Word) :
    (unpackFields w).firstReg.toNat = 16 * (w.extractLsb' 22 1).toNat + (w.extractLsb' 12 4).toNat := by
  rw [Fields.firstReg, BitVec.toNat_append, ← Nat.shiftLeft_add_eq_or_of_lt (BitVec.isLt _), Nat.shiftLeft_eq, Nat.mul_comm]
  rfl

/-- `inc` from a spacing bit of the word (R67, R68). -/
theorem incOf_spacing_bit (w : Word) {k : Nat} (h : k < 4) :
    incOf (spacingOf ((unpackFields w).indexAlign.extractLsb' k 1)) = if w.getLsbD (4 + k) then 2 else 1 := by
  rw [incOf_spacingOf, indexAlign_getLsbD w h]
  cases w.getLsbD (4 + k) <;> rfl

/-- `alignment` from the two bits of `<align>` for size 32 (R68). -/
theorem alignmentOf32_align32Of : ∀ b : BitVec 2, b ≠ 3#2 →
    alignmentOf32 (align32Of b) = if b = 0#2 then 1 else 4 <<< b.toNat := by decide

/-- Settles O5: the row that the fields select has the constants of its size (`consts_decodeSize8` and its like), read at the bit
positions of the fields. -/
theorem fieldsGiveDecodeConstants : Obligations.FieldsGiveDecodeConstants := by
  intro set w hspace
  have hdecode : decodeWord set w = .ok (instrOfFields set (unpackFields w)) :=
    decodeWord_ok_iff.2 ⟨hspace.trans (by cases set <;> rfl), rfl⟩
  refine ⟨fun h => ⟨_, hdecode, ?size8⟩, fun h => ⟨_, hdecode, ?size16⟩, fun h hal => ⟨_, hdecode, ?size32⟩, fun c => ?derived⟩
  case size8 =>
    rw [instrOfFields_of_size8 set h, consts_decodeSize8, constsSize8, firstReg_unpackFields_toNat,
      indexAlign_extractLsb' w (by decide), alignBit_eq_getLsbD, indexAlign_getLsbD w (by decide)]
    rfl
  case size16 =>
    rw [instrOfFields_of_size16 set h, consts_decodeSize16, constsSize16, firstReg_unpackFields_toNat,
      indexAlign_extractLsb' w (by decide), incOf_spacing_bit w (by decide), alignBit_eq_getLsbD, indexAlign_getLsbD w (by decide)]
    rfl
  case size32 =>
    have hbits : (unpackFields w).indexAlign.extractLsb' 0 2 = w.extractLsb' 4 2 := indexAlign_extractLsb' w (by decide)
    rw [instrOfFields_of_size32 set h (hbits ▸ hal), consts_decodeSize32, constsSize32, firstReg_unpackFields_toNat,
      indexAlign_extractLsb' w (by decide), incOf_spacing_bit w (by decide), hbits, alignmentOf32_align32Of _ hal]
    rfl
  case derived =>
    refine ⟨by simp [DecodeConsts.wback], by simp [DecodeConsts.registerIndex], by simp [DecodeConsts.listReg], fun k => ?_, rfl⟩
    simp only [DecodeConsts.listReg]
    ring

/-- Settles O7: each word evaluates. -/
theorem sampleWordsDecode : Obligations.SampleWordsDecode :=
  ⟨rfl, rfl, rfl, rfl, rfl, rfl, rfl, rfl, rfl⟩

/-! ### The byte order of fetch -/

/-- The bytes of a word given by its bytes (R43). -/
theorem wordBytes_leWord (b0 b1 b2 b3 : Byte) : wordBytes .a32 (leWord b0 b1 b2 b3) = [b0, b1, b2, b3] := by
  simp only [wordBytes, List.cons.injEq, and_true]
  refine ⟨?_, ?_, ?_, ?_⟩ <;>
  · refine BitVec.eq_of_getLsbD_eq fun i hi => ?_
    simp only [BitVec.getLsbD_extractLsb', leWord_getLsbD]
    interval_cases i <;> simp

/-- The bytes of a pair of halfwords given by its bytes (R43). -/
theorem wordBytes_halfPair (b0 b1 b2 b3 : Byte) :
    wordBytes .t32 (halfPair (leHalf b0 b1) (leHalf b2 b3)) = [b0, b1, b2, b3] := by
  simp only [wordBytes, List.cons.injEq, and_true]
  refine ⟨?_, ?_, ?_, ?_⟩ <;>
  · refine BitVec.eq_of_getLsbD_eq fun i hi => ?_
    simp only [BitVec.getLsbD_extractLsb', halfPair_getLsbD, leHalf_getLsbD]
    interval_cases i <;> simp

/-- Settles O8: the bytes are those of the word, which `decode_wordBytes` reads; and `BigEndianData` is no field that fetch reads. -/
theorem fetchIsLittleEndian : Obligations.FetchIsLittleEndian := by
  refine ⟨fun b0 b1 b2 b3 i h rest => ?a32, fun b0 b1 b2 b3 i h rest => ?t32, fun _ _ => rfl⟩
  case a32 =>
    have hb := decode_wordBytes (set := .a32) (w := leWord b0 b1 b2 b3) h rest
    rwa [wordBytes_leWord] at hb
  case t32 =>
    have hb := decode_wordBytes (set := .t32) (w := halfPair (leHalf b0 b1) (leHalf b2 b3)) h rest
    rwa [wordBytes_halfPair] at hb

/-! ### The assembler -/

/-- The assembler reads the tail of a form back as its `Rm` (R65, R80). -/
theorem asmRm_tailOf (m : RegNum) : asmRm (tailOf m) = some m := by
  revert m; decide

/-- The assembler reads back a list that ends at or before `D31` (R78). -/
theorem asmList_listReg {c : DecodeConsts} {sp : Spacing} (hinc : c.inc = incOf sp) (hd : c.d4 ≤ 31) :
    asmList [(c.d, c.index), (c.listReg 1, c.index), (c.listReg 2, c.index), (c.d4, c.index)] =
      some (BitVec.ofNat 5 c.d, c.index, sp) := by
  cases sp <;> simp [asmList, incOf, DecodeConsts.d4, DecodeConsts.listReg, hinc] at hd ⊢ <;> omega

/-- The `<align>` of a text, in bits: omitted for the alignment of a byte (R79). -/
def alignText (c : DecodeConsts) : Option Nat := if c.alignment = 1 then none else some (8 * c.alignment)

/-- The text of a store whose list ends at or before `D31` (R75 to R80). -/
theorem disassemble_of_consts {i : Instr} {c : DecodeConsts} (h : consts? i = some c) (hd : c.d4 ≤ 31) (cond : Option (BitVec 4)) :
    ∃ a, disassemble i cond = some a ∧ a.set = i.instrSet ∧ a.cond = (if i.instrSet = .t32 then cond else none) ∧
      a.qualifier = .omitted ∧ a.size = 8 * c.ebytes ∧
      a.list = [(c.d, c.index), (c.listReg 1, c.index), (c.listReg 2, c.index), (c.d4, c.index)] ∧
      a.base = c.n.toNat ∧ a.align = alignText c ∧ a.tail = tailOf c.m := by
  simp only [disassemble, h, hd, if_true]
  refine ⟨_, rfl, rfl, ?_, rfl, rfl, rfl, rfl, rfl, rfl⟩
  cases i.instrSet <;> rfl

/-- The assembler's fields for size 8 are the encoder's (R77 to R79). -/
theorem asmFields_size8 (d : BitVec 5) (n m : RegNum) (i : BitVec 3) (al : Bool) :
    asmFields 8 (BitVec.ofNat 5 d.toNat) i.toNat .single n (alignText (constsSize8 d n i al m)) m =
      some (fieldsSize8 d n i al m) := by
  cases al <;> simp [asmFields, alignText, constsSize8, i.isLt]

/-- The assembler's fields for size 16 are the encoder's (R77 to R79). -/
theorem asmFields_size16 (d : BitVec 5) (n m : RegNum) (i : BitVec 2) (sp : Spacing) (al : Bool) :
    asmFields 16 (BitVec.ofNat 5 d.toNat) i.toNat sp n (alignText (constsSize16 d n i sp al m)) m =
      some (fieldsSize16 d n i sp al m) := by
  cases al <;> simp [asmFields, alignText, constsSize16, i.isLt]

/-- The assembler's fields for size 32 are the encoder's (R77 to R79). -/
theorem asmFields_size32 (d : BitVec 5) (n m : RegNum) (i : BitVec 1) (sp : Spacing) (al : Align32) :
    asmFields 32 (BitVec.ofNat 5 d.toNat) i.toNat sp n (alignText (constsSize32 d n i sp al m)) m =
      some (fieldsSize32 d n i sp al m) := by
  cases al <;> simp [asmFields, alignText, constsSize32, alignmentOf32, i.isLt]

/-- The assembler makes the encoder's fields from the decode constants, for the spacing that `inc` stands for (R77 to R79). -/
theorem asmFields_of_consts {i : Instr} {c : DecodeConsts} (h : consts? i = some c) : ∃ sp, c.inc = incOf sp ∧
    asmFields (8 * c.ebytes) (BitVec.ofNat 5 c.d) c.index sp c.n (alignText c) c.m = some (fieldsOf i) := by
  cases i <;> simp only [consts?, Option.some.injEq, reduceCtorEq] at h <;> subst h
  case a1Offset | a1PostImm | a1PostReg | t1Offset | t1PostImm | t1PostReg => exact ⟨.single, rfl, asmFields_size8 ..⟩
  case a2Offset | a2PostImm | a2PostReg | t2Offset | t2PostImm | t2PostReg => exact ⟨_, rfl, asmFields_size16 ..⟩
  case a3Offset | a3PostImm | a3PostReg | t3Offset | t3PostImm | t3PostReg => exact ⟨_, rfl, asmFields_size32 ..⟩

/-- Settles O9: the assembler reads each part of the text back (`asmList_listReg`, `asmRm_tailOf`, `asmFields_of_consts`), and the
fields of a well-formed instruction select it. -/
theorem assemblerTextRoundTrips : Obligations.AssemblerTextRoundTrips := by
  intro i c cond hwf hi hd
  have hd4 : c.d4 ≤ 31 := hd
  obtain ⟨sp, hinc, hfields⟩ := asmFields_of_consts hi
  obtain ⟨a, ha, hset, hcond, hqual, hsize, hlist, hbase, halign, htail⟩ := disassemble_of_consts hi hd4 (some cond)
  have hn : ¬ 16 ≤ c.n.toNat := Nat.not_le.2 c.n.isLt
  have hinstr := instrOfFields_fieldsOf hwf
  refine ⟨a, ha, ?_⟩
  simp only [assemble, hset, hcond, hqual, hsize, hlist, hbase, halign, htail, asmList_listReg hinc hd4, asmRm_tailOf]
  cases hs : i.instrSet <;> rw [hs] at hinstr <;> simp [asmCond, hn, hfields, hinstr, condAlways]

end Sys2Proof
end

section
/-!
PROOFS. Fetch (00_scope.md section 6, 20_memory.md sections 2 and 3): what a step answers, said once for each thing that fetch can find
at the `pc`, and the program text that makes it find the bytes of an instruction.
-/

namespace Sys2Proof.Machine

/-! ### What a step answers -/

/-- A step executes what fetch finds (R17). -/
theorem step_of_fetch {s : State} {i : Instr} (h : s.fetchInstr = .ok i) : step s = exec i s := by
  simp [step, h]

/-- A step that answers a next state has executed what fetch found (R17). -/
theorem step_next_iff {s t : State} : step s = .next t ↔ ∃ i, s.fetchInstr = .ok i ∧ exec i s = .next t := by
  cases h : s.fetchInstr <;> simp [step, h]

/-- The `pc` is aligned when it is a multiple of 4 in A32, of 2 in T32 (R25, R46). -/
theorem pcAligned_iff (s : State) : s.pcAligned = true ↔ s.pc.toNat % (if s.instrSet = .a32 then 4 else 2) = 0 := by
  cases h : s.instrSet <;> simp [State.pcAligned, h, isAligned]

/-- Fetch at a `pc` that is not aligned (R25, R46). -/
theorem step_of_misaligned {s : State} (h : s.pcAligned = false) : step s = .refused (.misalignedPc s.pc) := by
  simp [step, State.fetchInstr, h]

/-- Fetch where no program text is (log entry 28). -/
theorem step_of_no_text {s : State} (hpc : s.pcAligned = true) (h : s.fetchBytes = []) : step s = .refused (.endOfText s.pc) := by
  simp [step, State.fetchInstr, hpc, h]

/-- No bytes decode to an instruction (R60). -/
theorem decode_nil (set : InstrSet) : decode set [] = .error .truncated := by cases set <;> rfl

/-- Fetch where the bytes decode (R17, R81). -/
theorem fetchInstr_of_decode {s : State} {i : Instr} {rest : List Byte} (hpc : s.pcAligned = true)
    (h : decode s.instrSet s.fetchBytes = .ok (i, rest)) : s.fetchInstr = .ok i := by
  have hne : s.fetchBytes ≠ [] := by
    intro hnil
    rw [hnil, decode_nil] at h
    cases h
  simp [State.fetchInstr, hpc, hne, h]

/-- Fetch where there are bytes that do not decode (R17, R81). -/
theorem step_of_decode_error {s : State} {e : DecodeRefusal} (hpc : s.pcAligned = true) (hne : s.fetchBytes ≠ [])
    (h : decode s.instrSet s.fetchBytes = .error e) : step s = .refused (refusalOf s.pc e) := by
  simp [step, State.fetchInstr, hpc, hne, h]

/-- Settles O10: the bytes decode, so fetch finds the instruction. -/
theorem stepRunsDecodedInstr : Obligations.StepRunsDecodedInstr := fun _ _ _ hpc h => step_of_fetch (fetchInstr_of_decode hpc h)

/-- Settles O12: the `pc` is not aligned. -/
theorem misalignedPcRefused : Obligations.MisalignedPcRefused := by
  intro s h
  refine step_of_misaligned (Bool.eq_false_iff.2 fun hal => h ?_)
  rw [pcAligned_iff] at hal
  cases hs : s.instrSet <;> simpa [hs] using hal

/-! ### Program text that holds given bytes -/

/-- Where bytes are listed at ascending addresses, they are what is read there (R41). -/
theorem Memory.readPrefix_eq (m : Memory) (bs : List Byte) : ∀ a : Word,
    (∀ j < bs.length, m.read (a + BitVec.ofNat 32 j).toNat = bs[j]?) → m.readPrefix a bs.length = bs := by
  induction bs with
  | nil => intro a _; rfl
  | cons b rest ih =>
    intro a h
    have hfirst : m.read a.toNat = some b := by
      have h0 := h 0 (by simp)
      rwa [BitVec.add_zero, List.getElem?_cons_zero] at h0
    have hrest := ih (a + 1#32) fun j hj => by
      have hj1 := h (j + 1) (by simpa using hj)
      rwa [List.getElem?_cons_succ, Nat.add_comm j 1, BitVec.ofNat_add, ← BitVec.add_assoc] at hj1
    simp [Memory.readPrefix, hfirst, hrest]

/-- An instruction is four bytes long (R60). -/
@[simp] theorem wordBytes_length (set : InstrSet) (w : Word) : (wordBytes set w).length = 4 := by cases set <;> rfl

/-- Where the program text at the `pc` holds the bytes of a word, fetch gets them. -/
theorem fetchBytes_of_text {s : State} {set : InstrSet} {w : Word}
    (h : ∀ j < 4, s.text.read (s.pc + BitVec.ofNat 32 j).toNat = (wordBytes set w)[j]?) : s.fetchBytes = wordBytes set w := by
  have hp := Memory.readPrefix_eq s.text (wordBytes set w) s.pc
  rw [wordBytes_length] at hp
  exact hp h

/-- Where the bytes of a well-formed instruction of the current set stand at an aligned `pc`, fetch finds it. -/
theorem fetchInstr_of_text {s : State} {i : Instr} (hwf : WellFormed i = true) (hset : i.instrSet = s.instrSet)
    (hpc : s.pcAligned = true) (h : ∀ j < 4, s.text.read (s.pc + BitVec.ofNat 32 j).toNat = (encodeBytes i)[j]?) :
    s.fetchInstr = .ok i := by
  refine fetchInstr_of_decode (rest := []) hpc ?_
  rw [fetchBytes_of_text h, ← hset, ← List.append_nil (wordBytes i.instrSet (encode i))]
  exact decode_wordBytes (decodeWord_encode hwf) []

/-- Settles O11: fetch finds the instruction whose bytes stand at the `pc`. -/
theorem stepRunsEncodedBytes : Obligations.StepRunsEncodedBytes := fun _ _ hwf hset hpc h =>
  step_of_fetch (fetchInstr_of_text hwf hset hpc h)

/-! ### What is no instruction of this hardware -/

/-- A halfword starts a 32-bit instruction when its first five bits are `11101`, `11110` or `11111` (R74). -/
theorem startsWideT32_leHalf (b0 b1 : Byte) : startsWideT32 (leHalf b0 b1) = decide (29 ≤ (b1.extractLsb' 3 5).toNat) := by
  have htop : (leHalf b0 b1).extractLsb' 11 5 = b1.extractLsb' 3 5 := by
    refine BitVec.eq_of_getLsbD_eq fun i hi => ?_
    simp only [BitVec.getLsbD_extractLsb', leHalf_getLsbD]
    rw [if_neg (by omega), show 11 + i - 8 = 3 + i by omega]
  rw [startsWideT32, htop]
  generalize b1.extractLsb' 3 5 = top
  revert top; decide

/-- The bytes of a word that does not decode do not decode, where they start a 32-bit instruction (R60, R74). -/
theorem decode_wordBytes_error {set : InstrSet} {w : Word} {e : DecodeRefusal} (h : decodeWord set w = .error e)
    (hwide : set = .t32 → 29 ≤ (w.extractLsb' 27 5).toNat) : decode set (wordBytes set w) = .error e := by
  cases set with
  | a32 => simp [decode, decodeA32, wordBytes, leWord_wordBytes, h]
  | t32 =>
    have htop : (w.extractLsb' 24 8).extractLsb' 3 5 = w.extractLsb' 27 5 := extractLsb'_extractLsb' w 24 (by decide)
    have hstart := startsWideT32_leHalf (w.extractLsb' 16 8) (w.extractLsb' 24 8)
    rw [htop, decide_eq_true (hwide rfl)] at hstart
    simp [decode, decodeT32, wordBytes, halfPair_wordBytes, hstart, h]

/-- A word outside the opcode space is refused by its name (R17, R81). -/
theorem step_of_foreign_word {s : State} {w : Word} (hpc : s.pcAligned = true) (hspace : w &&& spaceMask ≠ spaceMatch s.instrSet)
    (hwide : s.instrSet = .t32 → 29 ≤ (w.extractLsb' 27 5).toNat) (h : s.fetchBytes = wordBytes s.instrSet w) :
    step s = .refused (.notVst4SingleLane w) := by
  have hword : decodeWord s.instrSet w = .error (.notVst4SingleLane w) := by simp [decodeWord, hspace]
  refine step_of_decode_error hpc ?_ (h ▸ decode_wordBytes_error hword hwide)
  exact List.ne_nil_of_length_pos (by simp [h])

/-- Settles O13: each clause is an answer of the decoder to the bytes that fetch gets. -/
theorem foreignWordsRefused : Obligations.ForeignWordsRefused := by
  intro s hpc
  have hcut (hne : s.fetchBytes ≠ []) (h : decode s.instrSet s.fetchBytes = .error .truncated) :
      step s = .refused (.truncatedText s.pc) := step_of_decode_error hpc hne h
  refine ⟨fun w hs hw hb => ?a32, fun w hs hw hwide hb => ?t32, fun b0 b1 rest hs hnarrow hb => ?narrow, fun hs h1 h4 => ?cutA32,
    fun hs h1 => ?cutT32, fun b0 b1 rest hs hwide hb hrest => ?cutWide, fun hnone => ?none⟩
  case a32 => exact step_of_foreign_word hpc (by rw [hs]; exact hw) (by simp [hs]) (by rw [hs]; exact hb)
  case t32 => exact step_of_foreign_word hpc (by rw [hs]; exact hw) (fun _ => hwide) (by rw [hs]; exact hb)
  case narrow =>
    refine step_of_decode_error (e := .narrowT32 (leHalf b0 b1)) hpc (by simp [hb]) ?_
    have hstart := (startsWideT32_leHalf b0 b1).trans (decide_eq_false (Nat.not_le.2 hnarrow))
    simp [hs, hb, decode, decodeT32, hstart]
  case cutA32 =>
    refine hcut (List.ne_nil_of_length_pos h1) ?_
    rw [hs]
    match hb : s.fetchBytes, h4 with
    | [], _ | [_], _ | [_, _], _ | [_, _, _], _ => rfl
  case cutT32 =>
    obtain ⟨b, hb⟩ := List.length_eq_one_iff.1 h1
    exact hcut (by simp [hb]) (by rw [hs, hb]; rfl)
  case cutWide =>
    refine hcut (by simp [hb]) ?_
    have hstart := (startsWideT32_leHalf b0 b1).trans (decide_eq_true hwide)
    match rest, hrest with
    | [], _ | [_], _ => simp [hs, hb, decode, decodeT32, hstart]
  case none => exact step_of_no_text hpc (by simp [State.fetchBytes, Memory.readPrefix, hnone])

end Sys2Proof.Machine
end

section
/-!
PROOFS. The store that completes (40_vst4_single_lane.md sections 2 to 4): a ready store passes every test of the Operation
(`vst4_of_ready`) and has the effect of a completed store (`complete_storeEffect`); the statements on the six encodings, on one register
as base and index, and on the top of the address space are read off that effect.
-/

namespace Sys2Proof.Machine

/-! ### Any encoding -/

/-- `1110` holds whatever the flags are (R13). -/
@[simp] theorem conditionPassed_always (s : State) : s.conditionPassed 14#4 = true := rfl

/-- Every A32 form executes under `1110` (R76). -/
theorem condOf_of_a32 {i : Instr} (h : i.instrSet = .a32) (s : State) : condOf i s = 14#4 := by simp [condOf, h]

/-- Every T32 form executes under the supplied condition (R13). -/
theorem condOf_of_t32 {i : Instr} (h : i.instrSet = .t32) (s : State) : condOf i s = s.currentCond := by simp [condOf, h]

/-- Settles O14: a ready store passes every test, and completing it has the effect. -/
theorem readyStoreCompletes : Obligations.ReadyStoreCompletes := by
  intro i c s hi hready hc
  refine ⟨s.complete c (s.readR c.n), ?_, complete_storeEffect s hready.base (transferBytes_lt hi)⟩
  rw [exec_of_consts s hi]
  exact vst4_of_ready hready hc

/-- A ready A32 store completes: its condition always holds (R76). -/
theorem a32_completes {i : Instr} {c : DecodeConsts} {s : State} (hset : i.instrSet = .a32) (hi : consts? i = some c)
    (hready : StoreReady c s) : ∃ t, exec i s = .next t ∧ StoreEffect c s t :=
  readyStoreCompletes i c s hi hready (by rw [condOf_of_a32 hset]; exact conditionPassed_always s)

/-- A ready T32 store whose supplied condition holds completes (R13). -/
theorem t32_completes {i : Instr} {c : DecodeConsts} {s : State} (hc : s.conditionPassed s.currentCond = true)
    (hset : i.instrSet = .t32) (hi : consts? i = some c) (hready : StoreReady c s) :
    ∃ t, exec i s = .next t ∧ StoreEffect c s t :=
  readyStoreCompletes i c s hi hready (by rw [condOf_of_t32 hset]; exact hc)

/-! ### The six encodings -/

/-- `inc` is what a spacing stands for (R67, R68, R78). -/
theorem eq_incOf {sp : Spacing} {inc : Nat} (h : sp = .single ∧ inc = 1 ∨ sp = .double ∧ inc = 2) : inc = incOf sp := by
  rcases h with ⟨rfl, rfl⟩ | ⟨rfl, rfl⟩ <;> rfl

/-- `alignment` is what an `<align>` of size 32 stands for (R68, R79). -/
theorem eq_alignmentOf32 {al : Align32} {align : Nat}
    (h : al = .standard ∧ align = 1 ∨ al = .bits64 ∧ align = 8 ∨ al = .bits128 ∧ align = 16) : align = alignmentOf32 al := by
  rcases h with ⟨rfl, rfl⟩ | ⟨rfl, rfl⟩ | ⟨rfl, rfl⟩ <;> rfl

/-- Settles O16: the constants of A1 are those written out. -/
theorem a1StoresFourBytes : Obligations.A1StoresFourBytes := fun _ _ _ _ _ _ =>
  ⟨a32_completes rfl rfl, a32_completes rfl rfl, fun _ _ => a32_completes rfl rfl⟩

/-- Settles O17: the constants of A2 are those written out. -/
theorem a2StoresFourHalfwords : Obligations.A2StoresFourHalfwords := by
  intro d n m i sp inc al s hinc
  obtain rfl := eq_incOf hinc
  exact ⟨a32_completes rfl rfl, a32_completes rfl rfl, fun _ _ => a32_completes rfl rfl⟩

/-- Settles O18: the constants of A3 are those written out. -/
theorem a3StoresFourWords : Obligations.A3StoresFourWords := by
  intro d n m i sp inc al align s hinc halign
  obtain rfl := eq_incOf hinc
  obtain rfl := eq_alignmentOf32 halign
  exact ⟨a32_completes rfl rfl, a32_completes rfl rfl, fun _ _ => a32_completes rfl rfl⟩

/-- Settles O19: the constants of T1 are those written out. -/
theorem t1StoresFourBytes : Obligations.T1StoresFourBytes := fun _ _ _ _ _ _ hc =>
  ⟨t32_completes hc rfl rfl, t32_completes hc rfl rfl, fun _ _ => t32_completes hc rfl rfl⟩

/-- Settles O20: the constants of T2 are those written out. -/
theorem t2StoresFourHalfwords : Obligations.T2StoresFourHalfwords := by
  intro d n m i sp inc al s hc hinc
  obtain rfl := eq_incOf hinc
  exact ⟨t32_completes hc rfl rfl, t32_completes hc rfl rfl, fun _ _ => t32_completes hc rfl rfl⟩

/-- Settles O21: the constants of T3 are those written out. -/
theorem t3StoresFourWords : Obligations.T3StoresFourWords := by
  intro d n m i sp inc al align s hc hinc halign
  obtain rfl := eq_incOf hinc
  obtain rfl := eq_alignmentOf32 halign
  exact ⟨t32_completes hc rfl rfl, t32_completes hc rfl rfl, fun _ _ => t32_completes hc rfl rfl⟩

/-- The Operation depends on the condition only through whether it holds (R13). -/
theorem vst4_congr_cond {cond cond' : BitVec 4} (c : DecodeConsts) {s : State}
    (h : s.conditionPassed cond = s.conditionPassed cond') : vst4 cond c s = vst4 cond' c s := by
  simp only [vst4, h]

/-- Two forms with the same decode constants, one of T32 whose condition holds and one of A32, answer the same. -/
theorem exec_t32_eq_a32 {i j : Instr} {c : DecodeConsts} {s : State} (hc : s.conditionPassed s.currentCond = true)
    (hi : consts? i = some c) (hj : consts? j = some c) (hti : i.instrSet = .t32) (haj : j.instrSet = .a32) : exec i s = exec j s := by
  rw [exec_of_consts s hi, exec_of_consts s hj, condOf_of_t32 hti, condOf_of_a32 haj]
  exact vst4_congr_cond c (hc.trans (conditionPassed_always s).symm)

/-- Settles O22: each pair of forms has the same decode constants. -/
theorem t32FormsActAsA32Forms : Obligations.T32FormsActAsA32Forms := by
  intro d n m i8 i16 i32 sp al al32 s hc
  refine ⟨?_, ?_, ?_, ?_, ?_, ?_, ?_, ?_, ?_⟩ <;> exact exec_t32_eq_a32 hc rfl rfl rfl rfl

/-! ### One register as base and index, and the top of the address space -/

/-- Settles O23: the index register is the base register in the effect of the completed store. -/
theorem sameBaseAndIndexDoubles : Obligations.SameBaseAndIndexDoubles := by
  intro i c s hi hmn h13 hready hc
  obtain ⟨t, ht, heff⟩ := readyStoreCompletes i c s hi hready hc
  refine ⟨t, ht, ?_⟩
  rw [heff.base, hmn, if_neg hready.base, if_neg h13, BitVec.toNat_add, ← Nat.two_mul]

/-- An address past `2^32` is the one `2^32` below (R41, R120). -/
theorem toNat_add_ofNat_wrap {a : Word} {q : Nat} (hq : q < 2 ^ 32) (h : 2 ^ 32 ≤ a.toNat + q) :
    (a + BitVec.ofNat 32 q).toNat = a.toNat + q - 2 ^ 32 := by
  bv_omega

/-- Byte `j` of element `k` lies in the block of four elements (R47). -/
theorem element_byte_lt {k j e : Nat} (hk : k < 4) (hj : j < e) : k * e + j < 4 * e := by
  have hke : k * e ≤ 3 * e := Nat.mul_le_mul_right e (by omega)
  omega

/-- Settles O24: the bytes and the immediate writeback of the effect, at addresses that pass `2^32`. -/
theorem storeWrapsAtTop : Obligations.StoreWrapsAtTop := by
  intro i c s hi hready hc htop
  obtain ⟨t, ht, heff⟩ := readyStoreCompletes i c s hi hready hc
  have he := transferBytes_lt hi
  refine ⟨t, ht, fun k hk j hj hpast => ?bytes, fun h13 => ?base⟩
  case bytes =>
    have hlt := element_byte_lt hk hj
    rw [← toNat_add_ofNat_wrap (by omega) hpast]
    exact heff.stored k hk j hj
  case base =>
    rw [heff.base, h13, if_neg (by decide), if_pos rfl, toNat_add_ofNat_wrap he htop.le]

end Sys2Proof.Machine
end

section
/-!
PROOFS. Where the store stops (20_memory.md sections 3, 4 and 6; 40_vst4_single_lane.md section 4): the tests one after the other, and
the blocks that become UNKNOWN, at a Data Abort and for a list past `D31`.
-/

namespace Sys2Proof.Machine

/-! ### The tests before the four stores -/

/-- Settles O32: base register 15 is the first test of the Operation. -/
theorem baseR15Refused : Obligations.BaseR15Refused := by
  intro i c s hi hn
  rw [exec_of_consts s hi]
  simp [vst4, hn]

/-- A condition that fails leaves the `pc` advance alone (R92). -/
theorem exec_of_condition_false {i : Instr} {c : DecodeConsts} {s : State} (hi : consts? i = some c) (hn : c.n ≠ 15#4)
    (hd : c.d4 ≤ 31) (hc : s.conditionPassed (condOf i s) = false) : exec i s = .next s.advancePc := by
  rw [exec_of_consts s hi]
  simp [vst4, hn, Nat.not_lt.2 hd, hc]

/-- Settles O26: `1110`, the condition of every A32 form, does not fail. -/
theorem failedConditionOnlyAdvances : Obligations.FailedConditionOnlyAdvances := by
  intro i c s hi hn hd hc
  refine ⟨?_, exec_of_condition_false hi hn hd hc⟩
  cases hset : i.instrSet with
  | t32 => rfl
  | a32 =>
    rw [condOf_of_a32 hset] at hc
    exact absurd ((conditionPassed_always s).symm.trans hc) (by decide)

/-- A store that is not UNPREDICTABLE, whose condition holds, enabled and with an aligned base, is the four stores with their faults
(R91 step 7). -/
theorem exec_eq_storeStructure {i : Instr} {c : DecodeConsts} {s : State} (hi : consts? i = some c) (hn : c.n ≠ 15#4)
    (hd : c.d4 ≤ 31) (hc : s.conditionPassed (condOf i s) = true) (hen : s.advSIMDAccess = .enabled)
    (hal : (s.readR c.n).toNat % c.alignment = 0) : exec i s = storeStructure c (s.readR c.n) s := by
  rw [exec_eq_checkedStore hi hn hd hc, checkedStore_of_enabled hen, alignedStore_of_aligned ((isAligned_eq_true _ _).2 hal)]

/-! ### The tests of the four stores, in the order of R146 -/

/-- Under `StrictAlign` an unaligned first element stops the store first (R45). -/
theorem storeStructure_of_strict {c : DecodeConsts} {a : Word} {s : State} (hs : s.strictAlign = true)
    (ha : isAligned a c.ebytes = false) : storeStructure c a s = .fault (.alignmentFault (s.alignmentRecord a) s) := by
  simp [storeStructure, hs, ha, raise]

/-- A byte of program text in the block stops the store next (R56). -/
theorem storeStructure_of_overlap {c : DecodeConsts} {a : Word} {s : State} (hs : s.strictAlign = true → isAligned a c.ebytes = true)
    (ho : s.overlapsText a c.transferBytes = true) : storeStructure c a s = .refused (.storeOverlapsText a) := by
  cases h : s.strictAlign <;> simp_all [storeStructure]

/-- A refused element stops the store last (R48, R147). -/
theorem storeStructure_of_refused {c : DecodeConsts} {a b : Word} {s : State}
    (hs : s.strictAlign = true → isAligned a c.ebytes = true) (ho : s.overlapsText a c.transferBytes = false)
    (hf : s.firstRefused a c.ebytes = some b) :
    storeStructure c a s = .fault (.dataAbort b (s.drawBlock a c.transferBytes)) := by
  cases h : s.strictAlign <;> simp_all [storeStructure, raise]

/-- Without `StrictAlign` the four stores raise no alignment fault (R45). -/
theorem storeStructure_not_alignmentFault {c : DecodeConsts} {a : Word} {s : State} (hs : s.strictAlign = false) (r : FaultRecord)
    (t : State) : storeStructure c a s ≠ .fault (.alignmentFault r t) := by
  intro h
  rcases storeStructure_cases c a s with ⟨hs', -⟩ | ⟨-, e⟩ | ⟨-, _, -, e⟩ | ⟨-, -, -, e⟩
  · rw [hs] at hs'; cases hs'
  all_goals rw [e] at h; cases h

/-! ### Alignment of the elements -/

/-- An `<align>` above 1 byte is a multiple of the element size (R66 to R68). -/
theorem ebytes_dvd_alignment {i : Instr} {c : DecodeConsts} (hi : consts? i = some c) : c.alignment = 1 ∨ c.ebytes ∣ c.alignment := by
  cases i <;> simp only [consts?, Option.some.injEq, reduceCtorEq] at hi <;> subst hi
  case a1Offset | a1PostImm | a1PostReg | t1Offset | t1PostImm | t1PostReg => exact .inr (one_dvd _)
  case a2Offset al | a2PostImm al | a2PostReg al _ | t2Offset al | t2PostImm al | t2PostReg al _ =>
    cases al <;> simp [constsSize16]
  case a3Offset al | a3PostImm al | a3PostReg al _ | t3Offset al | t3PostImm al | t3PostReg al _ =>
    cases al <;> simp [constsSize32, alignmentOf32]

/-- The element size divides the size of the address space (R15). -/
theorem ebytes_dvd_addressSpace {i : Instr} {c : DecodeConsts} (hi : consts? i = some c) : c.ebytes ∣ 2 ^ 32 := by
  rcases consts_ebytes hi with h | h | h <;> rw [h] <;> decide

/-- The elements of an aligned block are aligned, wrapping or not (R41, R45). -/
theorem element_aligned {e k : Nat} {a : Word} (he : e ∣ 2 ^ 32) (ha : e ∣ a.toNat) : (a + BitVec.ofNat 32 (k * e)).toNat % e = 0 := by
  rw [BitVec.toNat_add, BitVec.toNat_ofNat, Nat.add_mod_mod, Nat.mod_mod_of_dvd _ he]
  exact Nat.mod_eq_zero_of_dvd (Nat.dvd_add ha (Nat.dvd_mul_left e k))

/-- Settles O29: the strict test is the first of the four stores; without it none of them raises an alignment fault; and the alignment
is a multiple of the element size. -/
theorem strictAlignChecksElements : Obligations.StrictAlignChecksElements := by
  intro i c s hi hn hd hc hen hal
  rw [exec_eq_storeStructure hi hn hd hc hen hal]
  refine ⟨fun hs hmis => ?strict, storeStructure_not_alignmentFault, fun h1 k _ => ?elements⟩
  case strict => rw [storeStructure_of_strict hs ((isAligned_eq_false _ _).2 hmis), alignmentRecord_eq]
  case elements =>
    have hdvd := (ebytes_dvd_alignment hi).resolve_left h1
    exact element_aligned (ebytes_dvd_addressSpace hi) (hdvd.trans (Nat.dvd_of_mod_eq_zero hal))

/-! ### Program text in the block -/

/-- The distance of an address of a block from its base (R41). -/
theorem add_ofNat_sub_toNat (a : Word) {j : Nat} (hj : j < 2 ^ 32) : (a + BitVec.ofNat 32 j - a).toNat = j := by bv_omega

/-- Different distances below `2^32` give different addresses (R41). -/
theorem add_ofNat_injective {a : Word} {p q : Nat} (hp : p < 2 ^ 32) (hq : q < 2 ^ 32)
    (h : a + BitVec.ofNat 32 p = a + BitVec.ofNat 32 q) : p = q := by
  rw [← add_ofNat_sub_toNat a hp, h, add_ofNat_sub_toNat a hq]

/-- A distance in the block names one byte of one element (R125). -/
theorem element_byte_injective {e k k' j j' : Nat} (hj : j < e) (hj' : j' < e) (h : k * e + j = k' * e + j') : k = k' ∧ j = j' := by
  have hk : k = k' := by
    have hdiv := congrArg (· / e) h
    simpa [Nat.mul_comm _ e, Nat.mul_add_div (Nat.zero_lt_of_lt hj), Nat.div_eq_of_lt hj, Nat.div_eq_of_lt hj'] using hdiv
  subst hk
  exact ⟨rfl, Nat.add_left_cancel h⟩

/-- Settles O30: the overlap test is the second of the four stores; distances in the block are below `2^32`. -/
theorem storeOverTextRefused : Obligations.StoreOverTextRefused := by
  intro i c s hi hn hd hc hen hal hstrict
  refine ⟨fun ⟨j, hj, htext⟩ => ?refused, fun k hk k' hk' j hj j' hj' h => ?apart⟩
  case refused =>
    rw [exec_eq_storeStructure hi hn hd hc hen hal]
    refine storeStructure_of_overlap (fun hs => (isAligned_eq_true _ _).2 (hstrict hs)) ?_
    by_contra hno
    rw [(overlapsText_false s _ _).1 (Bool.eq_false_iff.2 hno) j hj] at htext
    cases htext
  case apart =>
    have he := transferBytes_lt hi
    have hlt := element_byte_lt hk hj
    have hlt' := element_byte_lt hk' hj'
    exact element_byte_injective hj hj' (add_ofNat_injective (by omega) (by omega) h)

/-! ### A block that becomes UNKNOWN -/

/-- Each byte of the block is a draw of its own (R121, R147). -/
theorem drawBlock_read_in (s : State) (a : Word) {len j : Nat} (hlen : len < 2 ^ 32) (hj : j < len) :
    (s.drawBlock a len).mem.read (a + BitVec.ofNat 32 j).toNat = some (Config.unknownByte (s.draws + j)) := by
  rw [drawBlock_read s a _ len hlen, add_ofNat_sub_toNat a (hj.trans hlen), if_pos hj]

/-- No byte outside the block changes (R121, R147). -/
theorem drawBlock_read_out (s : State) {a x : Word} {len : Nat} (hlen : len < 2 ^ 32) (hx : ¬ inBlock a len x) :
    (s.drawBlock a len).mem.read x.toNat = s.mem.read x.toNat := by
  rw [drawBlock_read s a x len hlen]
  exact if_neg hx

/-- The first refused element, from the answers of `MemAdmit` in order (R145). -/
theorem firstRefused_eq_some {s : State} {a : Word} {e k : Nat} (hk : k < 4) (hbefore : ∀ q < k, s.elementAdmitted a e q = true)
    (hrefused : s.elementAdmitted a e k = false) : s.firstRefused a e = some (elementAddress a e k) := by
  have hfind : [0, 1, 2, 3].find? (fun k => !s.elementAdmitted a e k) = some k := by
    interval_cases k <;> simp_all [List.find?]
  rw [State.firstRefused, hfind, Option.map_some]

/-- Settles O31: the first refused element stops the four stores, and the state left has the block UNKNOWN. -/
theorem refusedElementAborts : Obligations.RefusedElementAborts := by
  intro i c s k hi hn hd hc hen hal hstrict hapart hk hbefore habort
  have hlen : c.transferBytes < 2 ^ 32 := transferBytes_lt hi
  have hrefused : s.elementAdmitted (s.readR c.n) c.ebytes k = false := by
    rw [Bool.eq_false_iff, Ne, elementAdmitted_iff, habort]
    decide
  have hfirst := firstRefused_eq_some hk (fun q hq => (elementAdmitted_iff s _ _ q).2 (hbefore q hq)) hrefused
  refine ⟨s.drawBlock (s.readR c.n) c.transferBytes, ?_, fun j => drawBlock_read_in s _ hlen, fun x => drawBlock_read_out s hlen, rfl⟩
  rw [exec_eq_storeStructure hi hn hd hc hen hal]
  exact storeStructure_of_refused (fun hs => (isAligned_eq_true _ _).2 (hstrict hs)) ((overlapsText_false s _ _).2 hapart) hfirst

/-! ### A list past `D31` -/

/-- A list past `D31` goes to `CUChoice`, whatever the later tests would say (R91, R121). -/
theorem exec_eq_listPastEnd {i : Instr} {c : DecodeConsts} (s : State) (hi : consts? i = some c) (hn : c.n ≠ 15#4) (hd : 31 < c.d4) :
    exec i s = listPastEnd c s := by
  rw [exec_of_consts s hi]
  simp [vst4, hn, hd]

/-- The memory that the UNKNOWN draws leave is that of the block's (R121). -/
@[simp] theorem drawUnknown_mem (s : State) (c : DecodeConsts) :
    (s.drawUnknown c).mem = (s.drawBlock (s.readR c.n) c.transferBytes).mem := by
  unfold State.drawUnknown
  split <;> rfl

/-- The UNKNOWN draws leave every field but the memory, the register file and the count of draws (R121). -/
theorem drawUnknown_eq (s : State) (c : DecodeConsts) (hn : c.n ≠ 15#4) :
    s.drawUnknown c = { s with gpr := (s.drawUnknown c).gpr, mem := (s.drawUnknown c).mem, draws := (s.drawUnknown c).draws } := by
  unfold State.drawUnknown State.drawR
  split
  · rw [State.writeR_eq _ c.n _ hn]
    rfl
  · rfl

/-- `R[n]` after the UNKNOWN draws: a draw of its own where the form writes back (R121). -/
theorem drawUnknown_readR_base (s : State) (c : DecodeConsts) : (s.drawUnknown c).readR c.n =
    if c.wback then Config.unknownWord (s.draws + c.transferBytes) else s.readR c.n := by
  unfold State.drawUnknown
  split
  · exact State.readR_writeR_same _ _ _
  · rfl

/-- The UNKNOWN draws leave every other register (R121). -/
theorem drawUnknown_readR_other (s : State) (c : DecodeConsts) (hn : c.n ≠ 15#4) {r : RegNum} (hr : r ≠ c.n) :
    (s.drawUnknown c).readR r = s.readR r := by
  unfold State.drawUnknown
  split
  · exact State.readR_writeR_other _ _ hr hn
  · rfl

/-- Settles O33: the four behaviours are those of `listPastEnd`, and the last leaves the UNKNOWN draws. -/
theorem listPastD31FollowsChoice : Obligations.ListPastD31FollowsChoice := by
  intro i c s hi hn hd
  have hlen : c.transferBytes < 2 ^ 32 := transferBytes_lt hi
  rw [exec_eq_listPastEnd s hi hn hd]
  refine ⟨fun h => by simp [listPastEnd, h], fun h => by simp [listPastEnd, h, raise],
    fun h => by simp [listPastEnd, h, State.advancePc, State.setPc], fun h hapart => ?_⟩
  refine ⟨(s.drawUnknown c).advancePc, ?next, fun j hj => ?bytes, fun x hx => ?frame, fun h15 => ?base, fun h15 => ?wback,
    fun r hr hr15 => ?regs, ?fields⟩
  case next =>
    simp [listPastEnd, h, (overlapsText_false s (s.readR c.n) c.transferBytes).2 hapart]
  case bytes =>
    rw [State.advancePc_mem, drawUnknown_mem]
    exact drawBlock_read_in s _ hlen hj
  case frame =>
    rw [State.advancePc_mem, drawUnknown_mem]
    exact drawBlock_read_out s hlen hx
  case base =>
    rw [State.readR_advancePc _ hn, drawUnknown_readR_base, if_neg (by simp [DecodeConsts.wback, h15])]
  case wback =>
    rw [State.readR_advancePc _ hn, drawUnknown_readR_base, if_pos (by simp [DecodeConsts.wback, h15])]
    rfl
  case regs =>
    rw [State.readR_advancePc _ hr15, drawUnknown_readR_other s c hn hr]
  case fields =>
    rw [drawUnknown_eq s c hn]
    rfl

end Sys2Proof.Machine
end

section
/-!
PROOFS. Frames (40_vst4_single_lane.md section 4, 60_exceptions.md section 3): what an outcome can be, said once for the next states and
once for the faults; from these what each outcome leaves unchanged, what a change of flags or control registers cannot do, and what
executing again after a Data Abort gives.
-/

namespace Sys2Proof.Machine

/-! ### The outcomes of an instruction -/

/-- Only a store instruction answers a next state (R141). -/
theorem consts_of_exec_next {i : Instr} {s t : State} (h : exec i s = .next t) : ∃ c, consts? i = some c := by
  cases hi : consts? i with
  | none => rw [exec_of_no_consts s hi] at h; cases h
  | some c => exact ⟨c, rfl⟩

/-- A next state is the `pc` advance alone, or, apart from program text, the UNKNOWN draws or the completed store (R91, R121). -/
theorem exec_next_cases {i : Instr} {c : DecodeConsts} {s t : State} (hi : consts? i = some c) (h : exec i s = .next t) :
    c.n ≠ 15#4 ∧ (t = s.advancePc ∨ s.overlapsText (s.readR c.n) c.transferBytes = false ∧
      (t = (s.drawUnknown c).advancePc ∨ t = s.complete c (s.readR c.n))) := by
  obtain ⟨hn, ⟨-, -, ht⟩ | ⟨-, -, ho, ht⟩ | ⟨-, -, ht⟩ | ⟨-, -, -, -, -, ho, -, ht⟩⟩ := (exec_next_iff s t hi).1 h
  · exact ⟨hn, .inl ht⟩
  · exact ⟨hn, .inr ⟨ho, .inl ht⟩⟩
  · exact ⟨hn, .inl ht⟩
  · exact ⟨hn, .inr ⟨ho, .inr ht⟩⟩

/-- A fault leaves the state before, or is a Data Abort of a store past its UNPREDICTABLE tests and its condition, which leaves the block
UNKNOWN (R147). -/
theorem exec_fault_cases {i : Instr} {s : State} {f : Fault} (h : exec i s = .fault f) :
    (f.left = s ∧ ∀ a t, f ≠ .dataAbort a t) ∨
    ∃ c a, consts? i = some c ∧ c.d4 ≤ 31 ∧ s.conditionPassed (condOf i s) = true ∧
      f = .dataAbort a (s.drawBlock (s.readR c.n) c.transferBytes) := by
  cases hi : consts? i with
  | none =>
    rw [exec_of_no_consts s hi] at h
    cases h
    exact .inl ⟨rfl, by simp⟩
  | some c =>
    rw [exec_of_consts s hi] at h
    rcases vst4_cases (condOf i s) c s with ⟨-, e⟩ | ⟨-, -, e⟩ | ⟨-, -, -, e⟩ | ⟨-, -, -, -, e⟩ | ⟨-, -, -, -, e⟩ |
        ⟨-, -, -, -, -, e⟩ | ⟨-, hd, hc, -, -, e⟩ <;> rw [e] at h
    · cases h
    · rcases listPastEnd_cases c s with ⟨-, e⟩ | ⟨-, e⟩ | ⟨-, e⟩ | ⟨-, -, e⟩ | ⟨-, -, e⟩ <;> rw [e] at h <;> cases h
      exact .inl ⟨rfl, by simp⟩
    · cases h
    · cases h; exact .inl ⟨rfl, by simp⟩
    · cases h; exact .inl ⟨rfl, by simp⟩
    · cases h; exact .inl ⟨rfl, by simp⟩
    · rcases storeStructure_cases c (s.readR c.n) s with ⟨-, -, e⟩ | ⟨-, e⟩ | ⟨-, a, -, e⟩ | ⟨-, -, -, e⟩ <;> rw [e] at h <;> cases h
      · exact .inl ⟨rfl, by simp⟩
      · exact .inr ⟨c, a, rfl, hd, hc, rfl⟩

/-! ### What an outcome leaves -/

/-- A next state has the `pc` four bytes on, and every field but the registers, the memory and the count of draws as before (R123). -/
theorem exec_next_fields {i : Instr} {s t : State} (h : exec i s = .next t) :
    t = { s with gpr := t.gpr, pc := s.pc + 4#32, mem := t.mem, draws := t.draws } := by
  obtain ⟨c, hi⟩ := consts_of_exec_next h
  obtain ⟨hn, rfl | ⟨-, rfl | rfl⟩⟩ := exec_next_cases hi h
  · rfl
  · rw [drawUnknown_eq s c hn]
    rfl
  · rw [complete_eq s c _ hn]

/-- A next state has every register but `R[n]` as before (R123). -/
theorem exec_next_readR_other {i : Instr} {c : DecodeConsts} {s t : State} (hi : consts? i = some c) (h : exec i s = .next t)
    {r : RegNum} (hr15 : r ≠ 15#4) (hr : r ≠ c.n) : t.readR r = s.readR r := by
  obtain ⟨hn, rfl | ⟨-, rfl | rfl⟩⟩ := exec_next_cases hi h
  · exact State.readR_advancePc s hr15
  · rw [State.readR_advancePc _ hr15, drawUnknown_readR_other s c hn hr]
  · exact (complete_storeEffect s hn (transferBytes_lt hi)).regFrame r hr hr15

/-- A next state has every byte outside the block as before (R123). -/
theorem exec_next_mem_other {i : Instr} {c : DecodeConsts} {s t : State} (hi : consts? i = some c) (h : exec i s = .next t)
    {x : Word} (hx : ¬ inBlock (s.readR c.n) (4 * c.ebytes) x) : t.mem.read x.toNat = s.mem.read x.toNat := by
  obtain ⟨hn, rfl | ⟨-, rfl | rfl⟩⟩ := exec_next_cases hi h
  · rfl
  · rw [State.advancePc_mem, drawUnknown_mem]
    exact drawBlock_read_out s (transferBytes_lt hi) hx
  · exact (complete_storeEffect s hn (transferBytes_lt hi)).memFrame x hx

/-- Settles O34: the frame of a next state in its parts, the file without writeback (`exec_next_gpr_of_no_wback`), and the state that a
fault leaves. -/
theorem onlyBlockBaseAndPcChange : Obligations.OnlyBlockBaseAndPcChange := by
  intro i s
  refine ⟨fun t h => ?next, fun f h hf => ?fault⟩
  case next =>
    obtain ⟨c, hi⟩ := consts_of_exec_next h
    refine ⟨c, hi, exec_next_fields h, fun r hr15 hr => ?_, fun x hx => exec_next_mem_other hi h hx⟩
    rcases hr with hr | hm
    · exact exec_next_readR_other hi h hr15 hr
    · exact State.readR_congr (exec_next_gpr_of_no_wback hi (by simp [DecodeConsts.wback, hm]) h) hr15
  case fault =>
    rcases exec_fault_cases h with ⟨hleft, -⟩ | ⟨c, a, -, -, -, e⟩
    · exact hleft
    · exact absurd e (hf a _)

/-- Settles O35: a Data Abort leaves the drawn block. -/
theorem faultsLeaveThisState : Obligations.FaultsLeaveThisState := by
  intro i s
  refine ⟨(onlyBlockBaseAndPcChange i s).2, fun a t h => ?_⟩
  rcases exec_fault_cases h with ⟨-, hf⟩ | ⟨c, b, hi, -, -, e⟩
  · exact absurd rfl (hf a t)
  · cases e
    have hlen : c.transferBytes < 2 ^ 32 := transferBytes_lt hi
    exact ⟨c, hi, fun j => drawBlock_read_in s _ hlen, fun x => drawBlock_read_out s hlen, rfl⟩

/-- Settles O36: the `pc` in the frame of a next state, and in the state a fault leaves. -/
theorem pcAdvancesOrStays : Obligations.PcAdvancesOrStays := by
  refine fun i s => ⟨fun t h => congrArg State.pc (exec_next_fields h), fun f h => ?_⟩
  rcases exec_fault_left h with e | ⟨a, len, e⟩ <;> rw [e]
  exact State.drawBlock_pc s a len

/-- Every state that is left differs from the one before in the general registers, the `pc`, the memory and the count of draws at most
(R123). -/
theorem exec_leaves_frame {i : Instr} {s t : State} (h : leaves (exec i s) t) :
    t = { s with gpr := t.gpr, pc := t.pc, mem := t.mem, draws := t.draws } := by
  rcases h with h | ⟨f, h, rfl⟩
  · rw [(pcAdvancesOrStays i s).1 t h]
    exact exec_next_fields h
  · rcases exec_fault_left h with e | ⟨a, len, e⟩ <;> rw [e]
    rfl

/-! ### Other flags, other control registers -/

/-- Where corresponding states answer the condition alike, an instruction has corresponding outcomes. -/
theorem exec_corresponds {g : State → State} {i : Instr} {s s' : State} (hstart : s' = g s)
    (h : ∀ c, consts? i = some c → Corresponds g c s s')
    (hc : s'.conditionPassed (condOf i s') = s.conditionPassed (condOf i s)) : exec i s' = mapResult g (exec i s) := by
  cases hi : consts? i with
  | none => rw [exec_of_no_consts _ hi, exec_of_no_consts _ hi, hstart]; rfl
  | some c =>
    rw [exec_of_consts _ hi, exec_of_consts _ hi]
    exact vst4_corresponds (h c hi) hc

/-- `MemAdmit` is asked with the rules, the addresses and the privilege, and with nothing else of the state (R47, R48). -/
theorem firstRefused_congr {s t : State} (hrules : t.admitRules = s.admitRules) (hpriv : t.privileged = s.privileged) (a : Word)
    (e : Nat) : t.firstRefused a e = s.firstRefused a e := by
  simp only [State.firstRefused, State.elementAdmitted, State.accessDesc, hrules, hpriv]

/-- Replace the flags and the Exception level. -/
def State.withFlags (n z c v : Bool) (e : EL) (s : State) : State := { s with flagN := n, flagZ := z, flagC := c, flagV := v, el := e }

/-- With an Exception level that is EL0 exactly when the first is, the states with either flags correspond (R27). -/
theorem corresponds_withFlags {n z v k : Bool} {e : EL} {s : State} (he : e = .el0 ↔ s.el = .el0) (c : DecodeConsts) :
    Corresponds (State.withFlags n z k v e) c s (s.withFlags n z k v e) := by
  have hpriv : (s.withFlags n z k v e).privileged = s.privileged := by
    simp only [State.privileged, State.withFlags, bne, beq_eq_decide, he]
  exact {
    start := rfl, base := rfl, enable := rfl, choice := rfl, strict := rfl, text := rfl
    refused := firstRefused_congr (s := s) (t := s.withFlags n z k v e) rfl hpriv _ _
    record := hpriv
    advance := rfl
    block := rfl
    unknown := fun _ => by unfold State.drawUnknown; split <;> rfl
    complete := fun _ => by unfold State.complete State.writeback; split <;> rfl }

/-- Settles O37: the states with either flags correspond, and the frame of every outcome holds the fields of `PSTATE`. -/
theorem pstateReadOnlyThroughTests : Obligations.PstateReadOnlyThroughTests := by
  intro i s n z c v e hc he
  refine ⟨exec_corresponds rfl (fun k _ => corresponds_withFlags he k) hc, fun t h => ?_⟩
  rw [exec_leaves_frame h]
  exact ⟨rfl, rfl, rfl, rfl, rfl, rfl, rfl, rfl⟩

/-- Replace the control registers, the Security state, the mode, DIT, and the settings of EL3 and EL2. -/
def State.withControl (cp ns hc fp : Word) (sec : SecurityState) (md : PEMode) (dit a b : Bool) (s : State) : State :=
  { s with cpacr := cp, nsacr := ns, hcptr := hc, fpexc := fp, security := sec, mode := md, dit := dit, el3AArch32 := a, el2Enabled := b }

/-- The states with either control registers correspond: no test and no update of the Operation reads one (D6). -/
theorem corresponds_withControl (cp ns hc fp : Word) (sec : SecurityState) (md : PEMode) (dit a b : Bool) (s : State)
    (c : DecodeConsts) : Corresponds (State.withControl cp ns hc fp sec md dit a b) c s (s.withControl cp ns hc fp sec md dit a b) where
  start := rfl
  base := rfl
  enable := rfl
  choice := rfl
  strict := rfl
  text := rfl
  refused := rfl
  record := rfl
  advance := rfl
  block := rfl
  unknown _ := by unfold State.drawUnknown; split <;> rfl
  complete _ := by unfold State.complete State.writeback; split <;> rfl

/-- Settles O38: the states with either control registers correspond, and the frame of every outcome holds those registers. -/
theorem controlRegistersOnlyThroughVerdict : Obligations.ControlRegistersOnlyThroughVerdict := by
  intro i s cp ns hc fp sec md dit a b
  refine ⟨exec_corresponds rfl (fun c _ => corresponds_withControl cp ns hc fp sec md dit a b s c) rfl, fun t h => ?_⟩
  rw [exec_leaves_frame h]
  exact ⟨rfl, rfl, rfl, rfl, rfl, rfl, rfl, rfl, rfl⟩

/-! ### Executing again after a Data Abort -/

/-- An address of the block is a byte of one of the four elements (R47). -/
theorem element_of_inBlock {a x : Word} {e : Nat} (hx : inBlock a (4 * e) x) :
    ∃ k < 4, ∃ j < e, x = a + BitVec.ofNat 32 (k * e + j) := by
  have hdist : (x - a).toNat < e * 4 := by rwa [Nat.mul_comm]
  refine ⟨(x - a).toNat / e, Nat.div_lt_of_lt_mul hdist, (x - a).toNat % e, Nat.mod_lt _ (by omega), ?_⟩
  rw [Nat.div_add_mod', BitVec.ofNat_toNat, BitVec.setWidth_eq]
  bv_omega

/-- A completed store does not show what its block held before it, or how many draws there have been (R95, R149). -/
theorem complete_after_drawBlock (s : State) {c : DecodeConsts} (he : 4 * c.ebytes < 2 ^ 32) {u v : State}
    (hu : u = s.complete c (s.readR c.n))
    (hv : v = (s.drawBlock (s.readR c.n) c.transferBytes).complete c (s.readR c.n)) :
    (∀ x : Word, v.mem.read x.toNat = u.mem.read x.toNat) ∧ v = { u with mem := v.mem, draws := v.draws } := by
  subst hu hv
  refine ⟨fun x => ?_, ?_⟩
  · rw [complete_mem, complete_mem]
    by_cases hx : inBlock (s.readR c.n) (4 * c.ebytes) x
    · obtain ⟨k, hk, j, hj, rfl⟩ := element_of_inBlock hx
      rw [storeElems_read_in _ c _ k j he hk hj, storeElems_read_in s c _ k j he hk hj]
      rfl
    · rw [storeElems_read_out _ c _ x he (Nat.not_lt.1 hx), storeElems_read_out s c _ x he (Nat.not_lt.1 hx)]
      exact drawBlock_read_out s he hx
  · unfold State.complete State.writeback
    split <;> rfl

/-- Settles O48: the UNKNOWN block passes the same tests, and completing the store does not show it. -/
theorem reexecutionAfterAbort : Obligations.ReexecutionAfterAbort := by
  intro i s t u a rules habort hnext
  rcases exec_fault_cases habort with ⟨-, hf⟩ | ⟨c, b, hi, hd, hc, e⟩
  · exact absurd rfl (hf a t)
  · obtain ⟨rfl, rfl⟩ : a = b ∧ t = s.drawBlock (s.readR c.n) c.transferBytes := by cases e; exact ⟨rfl, rfl⟩
    obtain ⟨hn, ⟨hpast, -⟩ | ⟨hpast, -⟩ | ⟨-, hfail, -⟩ | htests⟩ := (exec_next_iff _ u hi).1 hnext
    · exact absurd hd (Nat.not_le.2 hpast)
    · exact absurd hd (Nat.not_le.2 hpast)
    · exact absurd (hc.symm.trans hfail) (by decide)
    · obtain ⟨-, -, hen, hal, hstrict, hapart, hadmitted, hu⟩ := htests
      have hcomplete := complete_after_drawBlock { s with admitRules := rules } (transferBytes_lt hi) hu rfl
      exact ⟨_, (exec_next_iff _ _ hi).2 ⟨hn, .inr (.inr (.inr ⟨hd, hc, hen, hal, hstrict, hapart, hadmitted, rfl⟩))⟩, hcomplete⟩

end Sys2Proof.Machine
end

section
/-!
PROOFS. Steps and runs (20_memory.md section 6, 70_reset_and_hazards.md sections 2 and 5): what a step keeps, how a launch state comes to
be, and where a run of steps is after `n` of them. The inductions over a run are `runAdvancesStraightLine`,
`runFrom_endsAs` and `runFrom_completes`.
-/

namespace Sys2Proof.Machine

/-! ### Program text and the invariant -/

/-- A canonical memory lists addresses of the 32-bit space only (R40). -/
theorem Memory.lt_of_read_isSome {m : Memory} {a : Nat} (hwf : m.wf = true) (h : (Memory.read m a).isSome = true) : a < 2 ^ 32 := by
  by_contra hge
  rw [Memory.read_outside m 0 a hwf (Nat.le_of_not_lt hge)] at h
  cases h

/-- No byte of a block apart from the program text is text (R56). -/
theorem not_inBlock_of_text {s : State} {a x : Word} {len : Nat} (ho : s.overlapsText a len = false)
    (hx : (s.text.read x.toNat).isSome = true) : ¬ inBlock a len x := by
  intro hin
  have hnone := (overlapsText_false s a len).1 ho _ hin
  rw [BitVec.ofNat_toNat, BitVec.setWidth_eq, add_sub_cancel] at hnone
  rw [hnone] at hx
  cases hx

/-- Whatever an instruction answers, data memory at an address of the program text reads as before (R56). -/
theorem exec_next_text {i : Instr} {s t : State} (h : exec i s = .next t) {x : Word}
    (hx : (s.text.read x.toNat).isSome = true) : t.mem.read x.toNat = s.mem.read x.toNat := by
  obtain ⟨c, hi⟩ := consts_of_exec_next h
  obtain ⟨-, rfl | ⟨ho, -⟩⟩ := exec_next_cases hi h
  · rfl
  · exact exec_next_mem_other hi h (not_inBlock_of_text ho hx)

/-- Whatever an instruction answers, data memory keeps its canonical form (R40). -/
theorem exec_next_mem_wf {i : Instr} {s t : State} (h : exec i s = .next t) (hwf : s.mem.wf = true) : t.mem.wf = true := by
  obtain ⟨c, hi⟩ := consts_of_exec_next h
  obtain ⟨-, rfl | ⟨-, rfl | rfl⟩⟩ := exec_next_cases hi h
  · exact hwf
  · rw [State.advancePc_mem, drawUnknown_mem]
    exact Memory.wf_writeBytes _ _ _ hwf
  · rw [complete_mem]
    exact storeElems_wf s c _ hwf

/-- The fields that a step leaves alone (R123). -/
theorem step_next_frame {s t : State} (h : step s = .next t) :
    t.pc = s.pc + 4#32 ∧ t = { s with gpr := t.gpr, pc := t.pc, mem := t.mem, draws := t.draws } := by
  obtain ⟨i, -, hexec⟩ := step_next_iff.1 h
  exact ⟨(pcAdvancesOrStays i s).1 t hexec, exec_leaves_frame (.inl hexec)⟩

/-- A step leaves the program text (R36). -/
theorem step_next_text {s t : State} (h : step s = .next t) : t.text = s.text := by
  rw [(step_next_frame h).2]

/-- A step leaves the instruction set (R28). -/
theorem step_next_instrSet {s t : State} (h : step s = .next t) : t.instrSet = s.instrSet := by
  rw [(step_next_frame h).2]

/-- Settles O43: the text in the frame of a step, and the memory of its instruction. -/
theorem stepLeavesTextBytes : Obligations.StepLeavesTextBytes := by
  intro s t h
  obtain ⟨i, -, hexec⟩ := step_next_iff.1 h
  exact ⟨step_next_text h, fun x hx => exec_next_text hexec hx⟩

/-- The `pc` four bytes on is aligned where the `pc` was (R25). -/
theorem pcAligned_advance {s t : State} (hset : t.instrSet = s.instrSet) (hpc : t.pc = s.pc + 4#32) (h : s.pcAligned = true) :
    t.pcAligned = true := by
  rw [pcAligned_iff] at h ⊢
  rw [hset, hpc]
  cases hs : s.instrSet <;> simp only [hs, reduceCtorEq, if_true, if_false] at h ⊢ <;> bv_omega

/-- Settles O41: each part of the invariant is kept by the instruction that a step executes. -/
theorem stepKeepsInv : Obligations.StepKeepsInv := by
  intro s t hinv h
  obtain ⟨i, -, hexec⟩ := step_next_iff.1 h
  have htext := step_next_text h
  refine ⟨exec_next_mem_wf hexec hinv.mem_wf, htext ▸ hinv.text_wf, fun a ha => ?apart,
    pcAligned_advance (step_next_instrSet h) (step_next_frame h).1 hinv.pc_aligned⟩
  rw [htext] at ha
  have hlt := Memory.lt_of_read_isSome hinv.text_wf ha
  have haddr : (BitVec.ofNat 32 a).toNat = a := by rw [BitVec.toNat_ofNat, Nat.mod_eq_of_lt hlt]
  have hread := exec_next_text hexec (x := BitVec.ofNat 32 a) (by rwa [haddr])
  rw [haddr] at hread
  exact hread.trans (hinv.disjoint a ha)

/-! ### Launch states -/

/-- Settles O42: the reset state evaluates. -/
theorem resetMeetsLaunch : Obligations.ResetMeetsLaunch :=
  ⟨⟨by decide, by decide, fun _ h => by simp [State.reset, Memory.read] at h, by decide⟩, ⟨by decide, by decide⟩, rfl, rfl, rfl⟩

/-- Placing an instruction sets its instruction set and puts its bytes at the `pc` (log entry 14). -/
theorem withFetchWord_encode (s : State) (i : Instr) : s.withFetchWord 32 (encode i).toNat =
    { s with instrSet := i.instrSet, text := s.text.writeBytes s.pc (encodeBytes i) } := by
  simp [State.withFetchWord, tableValue_toNat, encodeBytes]

/-- An instruction is four bytes long (R60). -/
@[simp] theorem encodeBytes_length (i : Instr) : (encodeBytes i).length = 4 := wordBytes_length _ _

/-- A well-formed instruction placed at an aligned `pc` is what fetch finds there. -/
theorem fetchInstr_withFetchWord {s : State} {i : Instr} (hwf : WellFormed i = true)
    (hpc : (s.withFetchWord 32 (encode i).toNat).pcAligned = true) : (s.withFetchWord 32 (encode i).toNat).fetchInstr = .ok i := by
  rw [withFetchWord_encode] at hpc ⊢
  refine fetchInstr_of_text hwf rfl hpc fun j hj => ?_
  have hlen : j < (encodeBytes i).length := by rwa [encodeBytes_length]
  rw [List.getElem?_eq_getElem hlen]
  exact Memory.read_writeBytes_in s.text s.pc (encodeBytes i) j hlen (by rw [encodeBytes_length]; decide)

/-- Every register but `R[15]` is 0 at reset. -/
theorem readR_reset {n : RegNum} (hn : n ≠ 15#4) : State.reset.readR n = 0#32 := by
  rw [State.readR_file _ _ (RegNum.toNat_lt_of_ne hn)]
  simp [State.reset]

/-- Settles O44: fetch finds the placed instruction; in the reset state the text stands at `0x8000` and the stored bytes below 16. -/
theorem loadedInstrIsLaunched : Obligations.LoadedInstrIsLaunched := by
  intro i hwf
  have hplaced {s : State} (hpc : s.pc.toNat % (if i.instrSet = .a32 then 4 else 2) = 0) :
      (s.withFetchWord 32 (encode i).toNat).pcAligned = true := by
    rw [pcAligned_iff, withFetchWord_encode]
    exact hpc
  refine ⟨fun s hpc => step_of_fetch (fetchInstr_withFetchWord hwf (hplaced ?aligned)), ?launch⟩
  case aligned => cases hs : i.instrSet <;> simpa [hs] using hpc
  case launch =>
    have hpc : (State.reset.withFetchWord 32 (encode i).toNat).pcAligned = true := hplaced (by cases i.instrSet <;> decide)
    refine ⟨?set, hpc, fetchInstr_withFetchWord hwf hpc, ?settings, fun c hi hn j hj => ?apart⟩
    case set => rw [withFetchWord_encode]
    case settings =>
      rw [withFetchWord_encode]
      exact resetMeetsLaunch.2.1
    case apart =>
      have hj16 : j < 16 := by have := consts_ebytes hi; omega
      rw [withFetchWord_encode]
      have hbase : State.reset.readR c.n = 0#32 := readR_reset hn
      have hfar : (encodeBytes i).length ≤ (0#32 + BitVec.ofNat 32 j - 0x8000#32).toNat := by rw [encodeBytes_length]; bv_omega
      have hread := Memory.read_writeBytes_out [] 0x8000#32 _ (encodeBytes i) hfar (by rw [encodeBytes_length]; decide)
      rw [← hbase] at hread
      exact hread

/-- Settles O45: the launch preconditions, with the verdict and the level that the registers give, make the store ready. -/
theorem launchedStoreCompletes : Obligations.LaunchedStoreCompletes := by
  intro i c s hlaunch hi hn hd hverdict hal hstrict hadmit hc
  obtain ⟨haccess, hel⟩ := hlaunch.settings
  rw [step_of_fetch hlaunch.atPc]
  exact readyStoreCompletes i c s hi
    ⟨hn, hd, haccess.trans hverdict, hal, hstrict, hlaunch.apart c hi hn, by rw [hel]; exact hadmit⟩ hc

/-! ### Runs -/

/-- A run of one step more begins with that step. -/
theorem run_succ_iff {M : Host.Core} {k : Nat} {s t : M.State} :
    M.run (k + 1) s = .next t ↔ ∃ s', M.step s = .next s' ∧ M.run k s' = .next t := by
  rw [Host.Core.run]
  cases M.step s <;> simp

/-- A run goes on from where its first part ended. -/
theorem run_add_iff {M : Host.Core} {n m : Nat} {s t : M.State} :
    M.run (n + m) s = .next t ↔ ∃ u, M.run n s = .next u ∧ M.run m u = .next t := by
  induction n generalizing s with
  | zero => simp [Host.Core.run]
  | succ n ih =>
    rw [Nat.succ_add]
    simp only [run_succ_iff, ih]
    exact ⟨fun ⟨s', hs, u, hn, hm⟩ => ⟨u, ⟨s', hs, hn⟩, hm⟩, fun ⟨u, ⟨s', hs, hn⟩, hm⟩ => ⟨s', hs, u, hn, hm⟩⟩

/-- Settles O47, by induction on the number of steps: each step has the `pc` four bytes on and keeps the frame. -/
theorem runAdvancesStraightLine : Obligations.RunAdvancesStraightLine := by
  intro k
  induction k with
  | zero =>
    intro s t h
    cases h
    exact ⟨(BitVec.add_zero _).symm, rfl⟩
  | succ k ih =>
    intro s t h
    obtain ⟨s', hstep, hrun⟩ := run_succ_iff.1 h
    obtain ⟨hpc', hframe'⟩ := step_next_frame hstep
    obtain ⟨hpc, hframe⟩ := ih s' t hrun
    refine ⟨?_, ?_⟩
    · rw [hpc, hpc', Nat.mul_succ, Nat.add_comm, BitVec.ofNat_add, BitVec.add_assoc]
    · rw [hframe'] at hframe
      exact hframe

/-! ### The end of a run -/

/-- The addresses of `n` instructions in a straight line from `pc`, the last first: what `runFrom` has collected after `n` steps. -/
def straightLine (pc : Word) : Nat → List Word
  | 0 => []
  | n + 1 => (pc + BitVec.ofNat 32 (4 * n)) :: straightLine pc n

theorem mem_straightLine {pc a : Word} {n : Nat} : a ∈ straightLine pc n ↔ ∃ q < n, a = pc + BitVec.ofNat 32 (4 * q) := by
  induction n with
  | zero => simp [straightLine]
  | succ n ih =>
    simp only [straightLine, List.mem_cons, ih, Nat.lt_succ_iff_lt_or_eq, or_and_right, exists_or, exists_eq_left]
    exact or_comm

/-- The `n` instructions are the `4*n` bytes from `pc`, wrapping or not (R60). -/
theorem near_straightLine_iff {pc x : Word} {n : Nat} :
    (∃ a ∈ straightLine pc n, (x - a).toNat < 4) ↔ (x - pc).toNat < 4 * n := by
  simp only [mem_straightLine]
  constructor
  · rintro ⟨_, ⟨q, hq, rfl⟩, hx⟩
    bv_omega
  · intro hx
    exact ⟨_, ⟨(x - pc).toNat / 4, by omega, rfl⟩, by bv_omega⟩

/-- A listed address has a row. -/
theorem Memory.exists_mem_of_read {m : Memory} {a : Nat} (h : (Memory.read m a).isSome = true) : ∃ cell ∈ m, cell.1 = a := by
  induction m with
  | nil => simp [Memory.read] at h
  | cons cell rest ih =>
    by_cases hk : cell.1 = a
    · exact ⟨cell, List.mem_cons_self, hk⟩
    · obtain ⟨cell', hmem, ha⟩ := ih (by simpa [Memory.read, hk] using h)
      exact ⟨cell', List.mem_cons_of_mem cell hmem, ha⟩

/-- The address of a row is listed. -/
theorem Memory.read_isSome_of_mem {m : Memory} {cell : Host.Cell} (h : cell ∈ m) : (Memory.read m cell.1).isSome = true := by
  induction m with
  | nil => simp at h
  | cons first rest ih =>
    by_cases hk : first.1 = cell.1
    · simp [Memory.read, hk]
    · have hrest : cell ∈ rest := (List.mem_cons.1 h).resolve_left fun e => hk (congrArg Prod.fst e.symm)
      simpa [Memory.read, hk] using ih hrest

/-- After `n` steps in a straight line the run has completed when `n` is not 0 and every row of the text lies in the `4*n` bytes (R174). -/
theorem completedAfter_straightLine {pc : Word} {n : Nat} {t : State} (hpc : t.pc = pc + BitVec.ofNat 32 (4 * n)) :
    t.completedAfter (straightLine pc n) = true ↔ 0 < n ∧ ∀ cell ∈ t.text, (BitVec.ofNat 32 cell.1 - pc).toNat < 4 * n := by
  cases n with
  | zero => simp [straightLine, State.completedAfter]
  | succ n =>
    have hlast : t.pc = pc + BitVec.ofNat 32 (4 * n) + 4#32 := by rw [hpc, Nat.mul_succ, BitVec.ofNat_add, BitVec.add_assoc]
    simp only [← near_straightLine_iff]
    simp [straightLine, State.completedAfter, State.textExecuted, ← hlast]

/-! #### One step of `runFrom` -/

theorem runFrom_of_completed {done : List Word} {s : State} (h : s.completedAfter done = true) (k : Nat) :
    runFrom done k s = .completed s := by
  cases k <;> simp [runFrom, h]

theorem runFrom_of_next {done : List Word} {s s' : State} (h : s.completedAfter done = false) (hs : step s = .next s') (k : Nat) :
    runFrom done (k + 1) s = runFrom (s.pc :: done) k s' := by
  simp [runFrom, h, hs]

theorem runFrom_of_fault {done : List Word} {s : State} {f : Fault} (h : s.completedAfter done = false) (hs : step s = .fault f)
    (k : Nat) : runFrom done (k + 1) s = .faulted f := by
  simp [runFrom, h, hs]

theorem runFrom_of_refused {done : List Word} {s : State} {r : Refusal} (h : s.completedAfter done = false)
    (hs : step s = .refused r) (k : Nat) : runFrom done (k + 1) s = .refused r := by
  simp [runFrom, h, hs]

/-- After `n` steps from `s` and one more, the addresses collected are those of `n + 1` instructions in a straight line. -/
theorem straightLine_after_run {n : Nat} {s u : State} (h : core.run n s = .next u) :
    u.pc :: straightLine s.pc n = straightLine s.pc (n + 1) := by
  rw [straightLine, (runAdvancesStraightLine n s u h).1]

/-- A run of `n` steps and one more. -/
theorem run_succ_last {n : Nat} {s u u' : State} (h : core.run n s = .next u) (hu : step u = .next u') :
    core.run (n + 1) s = .next u' :=
  run_add_iff.2 ⟨u, h, run_succ_iff.2 ⟨u', hu, rfl⟩⟩

/-! #### The run -/

/-- What the end of a run of at most `bound` steps from `s` says of the steps that ran (R174). -/
def EndsAs (s : State) (bound : Nat) : RunEnd → Prop
  | .completed t => ∃ n ≤ bound, core.run n s = .next t ∧ t.completedAfter (straightLine s.pc n) = true
  | .faulted f => ∃ n u, n < bound ∧ core.run n s = .next u ∧ step u = .fault f
  | .refused r => ∃ n u, n < bound ∧ core.run n s = .next u ∧ step u = .refused r
  | .unfinished _ => True

/-- However a run goes on after `n` steps, its end is one that those `n` steps and the further ones lead to. -/
theorem runFrom_endsAs (s : State) (k : Nat) : ∀ (n : Nat) (u : State), core.run n s = .next u →
    EndsAs s (n + k) (runFrom (straightLine s.pc n) k u) := by
  induction k with
  | zero =>
    intro n u hrun
    cases hdone : u.completedAfter (straightLine s.pc n) with
    | true => rw [runFrom_of_completed hdone]; exact ⟨n, Nat.le_refl n, hrun, hdone⟩
    | false => simp [runFrom, hdone, EndsAs]
  | succ k ih =>
    intro n u hrun
    cases hdone : u.completedAfter (straightLine s.pc n) with
    | true => rw [runFrom_of_completed hdone]; exact ⟨n, Nat.le_add_right n _, hrun, hdone⟩
    | false =>
      cases hstep : step u with
      | next u' =>
        rw [runFrom_of_next hdone hstep, straightLine_after_run hrun, ← Nat.succ_add_eq_add_succ]
        exact ih (n + 1) u' (run_succ_last hrun hstep)
      | fault f => rw [runFrom_of_fault hdone hstep]; exact ⟨n, u, by omega, hrun, hstep⟩
      | refused r => rw [runFrom_of_refused hdone hstep]; exact ⟨n, u, by omega, hrun, hstep⟩

/-- A run that can reach a completed state ends as completed, there or before. -/
theorem runFrom_completes {s t : State} {m : Nat} (hm : core.run m s = .next t)
    (hdone : t.completedAfter (straightLine s.pc m) = true) (k : Nat) : ∀ (n : Nat) (u : State), core.run n s = .next u → n ≤ m →
    m ≤ n + k → ∃ v, runFrom (straightLine s.pc n) k u = .completed v := by
  induction k with
  | zero =>
    intro n u hrun hnm hmn
    obtain rfl : m = n := Nat.le_antisymm hmn hnm
    obtain rfl : u = t := by rw [hrun] at hm; cases hm; rfl
    exact ⟨u, runFrom_of_completed hdone 0⟩
  | succ k ih =>
    intro n u hrun hnm hmn
    cases hu : u.completedAfter (straightLine s.pc n) with
    | true => exact ⟨u, runFrom_of_completed hu _⟩
    | false =>
      have hne : n ≠ m := by
        rintro rfl
        rw [hrun] at hm
        cases hm
        exact absurd (hu.symm.trans hdone) (by decide)
      obtain ⟨q, rfl⟩ : ∃ q, m = n + (q + 1) := ⟨m - n - 1, by omega⟩
      obtain ⟨w, hw, hrest⟩ := run_add_iff.1 hm
      obtain rfl : w = u := by rw [hrun] at hw; cases hw; rfl
      obtain ⟨u', hstep, -⟩ := run_succ_iff.1 hrest
      rw [runFrom_of_next hu hstep, straightLine_after_run hrun]
      exact ih (n + 1) u' (run_succ_last hrun hstep) (by omega) (by omega)

/-- Settles O46: the end that `runFrom_endsAs` gives, with `Completed` in terms of the `4*n` bytes from the start. -/
theorem runEndSaysWhatRan : Obligations.RunEndSaysWhatRan := by
  intro k s
  have hends : EndsAs s (0 + k) (runEnd k s) := runFrom_endsAs s k 0 s rfl
  rw [Nat.zero_add] at hends
  refine ⟨fun t h => ?completed, fun f h => by rwa [h] at hends, fun r h => by rwa [h] at hends,
    fun n t hn hnk hrun hwf htext => ?completes⟩
  case completed =>
    rw [h] at hends
    obtain ⟨n, hnk, hrun, hdone⟩ := hends
    obtain ⟨hpc, hframe⟩ := runAdvancesStraightLine n s t hrun
    obtain ⟨hn, hcells⟩ := (completedAfter_straightLine hpc).1 hdone
    refine ⟨n, hn, hnk, hrun, hpc, fun x hx => ?_⟩
    obtain ⟨cell, hmem, hcell⟩ := Memory.exists_mem_of_read hx
    have htext : t.text = s.text := by rw [hframe]
    have hbytes := hcells cell (htext ▸ hmem)
    rwa [hcell, BitVec.ofNat_toNat, BitVec.setWidth_eq] at hbytes
  case completes =>
    obtain ⟨hpc, hframe⟩ := runAdvancesStraightLine n s t hrun
    refine runFrom_completes hrun ((completedAfter_straightLine hpc).2 ⟨hn, fun cell hmem => ?_⟩) k 0 s rfl (Nat.zero_le n) (by omega)
    have hcell : cell ∈ s.text := by rw [hframe] at hmem; exact hmem
    have hsome := Memory.read_isSome_of_mem hcell
    have hlt := Memory.lt_of_read_isSome hwf hsome
    refine htext (BitVec.ofNat 32 cell.1) ?_
    rwa [BitVec.toNat_ofNat, Nat.mod_eq_of_lt hlt]

end Sys2Proof.Machine
end

section
/-!
PROOFS. The shared operations (00_scope.md section 4, 20_memory.md section 2, 10_state.md section 4, 60_exceptions.md section 1): the bytes
of a value in memory and the way back, the lane, the conditions, the register views, and the sketch of the enable verdict.
-/

namespace Sys2Proof.Machine

/-! ### The bytes of a value -/

/-- A block that was written reads as the ordered bytes of the value (R42). -/
theorem memWrite_read_in (be : Bool) (a : Word) {n j : Nat} (v : BitVec (8 * n)) (m : Memory) (hn : n < 2 ^ 32) (hj : j < n) :
    (memWrite be a n v m).read (a + BitVec.ofNat 32 j).toNat = some (orderedByte be n v j) := by
  rw [memWrite_read be a n v m _ hn, add_ofNat_sub_toNat a (hj.trans hn), if_pos hj]

/-- Settles O49: the bytes inside the block, the bytes outside it, and the only order of one byte. -/
theorem memWritePlacesBytes : Obligations.MemWritePlacesBytes := by
  intro be a n v m hn
  refine ⟨fun j hj => memWrite_read_in be a v m hn hj, fun x hx => ?_, fun _ => rfl⟩
  rw [memWrite_read be a n v m x hn]
  exact if_neg hx

/-- Which byte of an `n`-byte value stands at place `j` in memory (R42). -/
def bytePos (be : Bool) (n j : Nat) : Nat := if be then n - 1 - j else j

theorem bytePos_lt (be : Bool) {n j : Nat} (hj : j < n) : bytePos be n j < n := by
  unfold bytePos; split <;> omega

/-- The ordered bytes are those at these places (R42). -/
theorem orderedByte_eq (be : Bool) (n : Nat) (v : BitVec (8 * n)) (j : Nat) :
    orderedByte be n v j = v.extractLsb' (8 * bytePos be n j) 8 := rfl

/-- Reversing the order twice is no change. -/
theorem bytePos_bytePos (be : Bool) {n j : Nat} (hj : j < n) : bytePos be n (bytePos be n j) = j := by
  unfold bytePos; split <;> omega

/-- A bit of many words joined by `or` is a bit of one of them. -/
theorem getLsbD_foldl_or {α : Type} {w : Nat} (f : α → BitVec w) (l : List α) (i : Nat) : ∀ v : BitVec w,
    (l.foldl (fun v j => v ||| f j) v).getLsbD i = (v.getLsbD i || l.any fun j => (f j).getLsbD i) := by
  induction l with
  | nil => intro v; simp
  | cons j rest ih => intro v; simp [ih, Bool.or_assoc]

/-- A byte put back at its place contributes the bits of that byte of the value (R42). -/
theorem getLsbD_placed_byte (be : Bool) {n : Nat} (v : BitVec (8 * n)) {i j : Nat} (hi : i < 8 * n) (hj : j < n) :
    ((((orderedBytes be n v)[j]?).getD 0#8).setWidth (8 * n) <<< (8 * bytePos be n j)).getLsbD i =
      (decide (bytePos be n j = i / 8) && v.getLsbD i) := by
  have hbyte : ((orderedBytes be n v)[j]?).getD 0#8 = v.extractLsb' (8 * bytePos be n j) 8 := by
    rw [List.getElem?_eq_getElem (by simpa using hj), Option.getD_some, orderedBytes_getElem, orderedByte_eq]
  rw [hbyte]
  simp only [BitVec.getLsbD_shiftLeft, BitVec.getLsbD_setWidth, BitVec.getLsbD_extractLsb']
  by_cases hpos : bytePos be n j = i / 8
  · have hbit : 8 * bytePos be n j + (i - 8 * bytePos be n j) = i := by omega
    have hge : ¬ i < 8 * bytePos be n j := by omega
    have hlt : i - 8 * bytePos be n j < 8 := by omega
    have hlt' : i - 8 * bytePos be n j < 8 * n := by omega
    simp only [hbit, hi, hge, hlt, hlt', decide_eq_true hpos, decide_true, decide_false, Bool.not_false, Bool.true_and]
  · have hout : i < 8 * bytePos be n j ∨ ¬ i - 8 * bytePos be n j < 8 := by omega
    rcases hout with hout | hout <;> simp [hout, hpos]

/-- The ordered bytes of a value give it back (R12, R42). -/
theorem joinBytes_orderedBytes (be : Bool) (n : Nat) (v : BitVec (8 * n)) : joinBytes be n (orderedBytes be n v) = v := by
  refine BitVec.eq_of_getLsbD_eq fun i hi => ?_
  have hplaced := fun j (hj : j < n) => getLsbD_placed_byte be v hi hj
  rw [joinBytes, getLsbD_foldl_or, BitVec.getLsbD_zero, Bool.false_or, Bool.eq_iff_iff, List.any_eq_true]
  constructor
  · rintro ⟨j, hj, hbit⟩
    have := (hplaced j (List.mem_range.1 hj)).symm.trans hbit
    simp at this
    exact this.2
  · intro hbit
    have hlt : i / 8 < n := by omega
    refine ⟨bytePos be n (i / 8), List.mem_range.2 (bytePos_lt be hlt), (hplaced _ (bytePos_lt be hlt)).trans ?_⟩
    simp [bytePos_bytePos be hlt, hbit]

/-- Settles O50: the bytes read are the ordered bytes that were written. -/
theorem memReadAfterMemWrite : Obligations.MemReadAfterMemWrite := by
  intro be a n v m hsize
  have hn : n < 2 ^ 32 := by omega
  have hread : (memWrite be a n v m).readPrefix a n = orderedBytes be n v := by
    have hlisted := Memory.readPrefix_eq (memWrite be a n v m) (orderedBytes be n v) a
    rw [orderedBytes_length] at hlisted
    refine hlisted fun j hj => ?_
    rw [memWrite_read_in be a v m hn hj, List.getElem?_eq_getElem (by simpa using hj), orderedBytes_getElem]
  rw [memRead, hread, if_pos (orderedBytes_length be n v), joinBytes_orderedBytes]

/-! ### Lanes, conditions, register views -/

/-- Settles O51: a lane is a slice of the register. -/
theorem elemSelectsLane : Obligations.ElemSelectsLane := by
  intro v e size b _ _ hb
  simp [elem, hb]

/-- Settles O52: for each value of the flags the sixteen conditions evaluate. -/
theorem conditionTable : Obligations.ConditionTable := by
  unfold Obligations.ConditionTable
  decide

/-- Settles O53: the two halves of a `D` register are its two `S` registers. -/
theorem registerViewsAgree : Obligations.RegisterViewsAgree := by
  refine fun s => ⟨fun _ => rfl, fun i => ?_⟩
  have hhigh : (2 * i.val + 1) / 2 = i.val ∧ (2 * i.val + 1) % 2 = 1 := by omega
  have hlow : 2 * i.val / 2 = i.val ∧ 2 * i.val % 2 = 0 := by omega
  simp only [State.readS, hhigh, hlow]
  exact (BitVec.extractLsb'_append_extractLsb' (w := 32) (len := 32)).symm

/-! ### The sketch of the enable verdict -/

/-- In Hyp mode the trap check alone decides (R142). -/
theorem enableVerdict_of_hyp {s : State} (h : s.mode = .hyp) : s.enableVerdict = s.trapVerdict := by
  simp [State.enableVerdict, h]

/-- The UNDEFINED checks, outside Hyp mode (R142). -/
theorem enableVerdict_of_disabled {s : State} (hm : s.mode ≠ .hyp) (h : s.asimdDisabled = true ∨ s.effectiveCp10 = 0#2 ∨
    (s.effectiveCp10 = 1#2 ∧ s.el = .el0) ∨ s.fpexcEN = false) : s.enableVerdict = .undefined := by
  unfold State.enableVerdict
  rw [if_neg (by simpa using hm), if_pos]
  rcases h with h | h | ⟨h, hel⟩ | h <;> simp [*]

/-- Past the UNDEFINED checks the trap check decides (R142). -/
theorem enableVerdict_of_enabled {s : State} (hm : s.mode ≠ .hyp) (hdis : s.asimdDisabled = false)
    (hcp : s.effectiveCp10 = 3#2 ∨ (s.effectiveCp10 = 1#2 ∧ s.el ≠ .el0)) (hen : s.fpexcEN = true) :
    s.enableVerdict = s.trapVerdict := by
  unfold State.enableVerdict
  rcases hcp with hcp | ⟨hcp, hel⟩ <;> simp [*]

/-- `NSACR` has its effect in Non-secure state with EL3 using AArch32 (R142). -/
theorem nsacrApplies_iff (s : State) : s.nsacrApplies = true ↔ s.security = .nonSecure ∧ s.el3AArch32 = true := by
  simp [State.nsacrApplies]

/-- Where `NSACR` has no effect, or enables, CPACR alone gives `cp10` and the disable bit (R142). -/
theorem effective_of_nsacr_enables {s : State}
    (h : s.security = .secure ∨ s.el3AArch32 = false ∨ (s.nsacr.getLsbD 15 = false ∧ s.nsacr.getLsbD 10 = true)) :
    s.effectiveCp10 = s.cpacrCp10 ∧ s.asimdDisabled = s.cpacrASEDIS ∧ s.hypTrapped = (s.el2Enabled && (s.hcptrTASE || s.hcptrTCP10)) := by
  have hns : s.nsacrApplies = false ∨ (s.nsacrNSASEDIS = false ∧ s.nsacrCp10 = true) := by
    rcases h with h | h | h
    · exact .inl (by rw [State.nsacrApplies, h]; rfl)
    · exact .inl (by simp [State.nsacrApplies, h])
    · exact .inr h
  rcases hns with hns | ⟨hdis, hcp10⟩
  · simp [State.effectiveCp10, State.asimdDisabled, State.hypTrapped, hns]
  · simp [State.effectiveCp10, State.asimdDisabled, State.hypTrapped, hdis, hcp10]

/-- The UNDEFINED checks of CPACR and FPEXC, `NSACR` apart (R142). -/
theorem enableVerdict_of_cpacr {s : State} (hm : s.mode ≠ .hyp) (h : s.cpacr.getLsbD 31 = true ∨ s.cpacr.extractLsb' 20 2 = 0#2 ∨
    (s.cpacr.extractLsb' 20 2 = 1#2 ∧ s.el = .el0) ∨ s.fpexc.getLsbD 30 = false) : s.enableVerdict = .undefined := by
  have hcp10 : s.effectiveCp10 = 0#2 ∨ s.effectiveCp10 = s.cpacrCp10 := by
    unfold State.effectiveCp10; split <;> simp
  refine enableVerdict_of_disabled hm ?_
  rcases h with h | h | ⟨h, hel⟩ | h
  · exact .inl (by simp [State.asimdDisabled, State.cpacrASEDIS, h])
  · exact .inr (.inl (hcp10.elim id (·.trans h)))
  · exact .inr (hcp10.imp id fun e => .inl ⟨e.trans h, hel⟩)
  · exact .inr (.inr (.inr h))

/-- The trap check, whatever the mode: no trap where `hypTrapped` is not set (R142). -/
theorem trapVerdict_of_not_trapped {s : State} (h : s.hypTrapped = false) : s.trapVerdict = .enabled := by
  simp [State.trapVerdict, h]

/-- A trap below EL2 is a Hyp trap (R142). -/
theorem trapVerdict_of_trapped {s : State} (h : s.hypTrapped = true) (hm : s.mode ≠ .hyp) (hel : s.elOfMode ≠ .el3) :
    s.trapVerdict = .hypTrap := by
  simp [State.trapVerdict, h, hm, hel]

/-- A trap in Hyp mode is UNDEFINED (R142). -/
theorem trapVerdict_of_hyp {s : State} (hm : s.mode = .hyp) : s.trapVerdict = if s.hypTrapped then .undefined else .enabled := by
  cases h : s.hypTrapped <;> simp [State.trapVerdict, h, hm]

/-- The trap check written out (R142). -/
theorem hypTrapped_iff (s : State) : s.hypTrapped = true ↔ s.el2Enabled = true ∧ (s.hcptr.getLsbD 15 = true ∨ s.hcptr.getLsbD 10 = true ∨
    (s.security = .nonSecure ∧ s.el3AArch32 = true ∧ (s.nsacr.getLsbD 15 = true ∨ s.nsacr.getLsbD 10 = false))) := by
  simp [State.hypTrapped, State.hcptrTASE, State.hcptrTCP10, State.nsacrNSASEDIS, State.nsacrCp10, nsacrApplies_iff, and_assoc,
    or_assoc]

/-- Settles O54: the checks in the order of the sketch. -/
theorem enableSketchVerdicts : Obligations.EnableSketchVerdicts := by
  intro s
  refine ⟨enableVerdict_of_cpacr, fun hm hsec hel3 hns => ?nsacr, fun hm hdis hcp hen hns => ?past, fun hm => ?hyp⟩
  case nsacr =>
    have happlies := (nsacrApplies_iff s).2 ⟨hsec, hel3⟩
    rcases hns with (hdis : s.nsacrNSASEDIS = true) | (hcp10 : s.nsacrCp10 = false)
    · exact enableVerdict_of_disabled hm (.inl (by simp [State.asimdDisabled, happlies, hdis]))
    · exact enableVerdict_of_disabled hm (.inr (.inl (by simp [State.effectiveCp10, happlies, hcp10])))
  case past =>
    obtain ⟨hcp10, hasedis, htrap⟩ := effective_of_nsacr_enables hns
    rw [enableVerdict_of_enabled hm (hasedis.trans hdis) (by rw [hcp10]; exact hcp) hen]
    refine ⟨fun h => trapVerdict_of_not_trapped (htrap.trans ?_), fun hel2 h hel => trapVerdict_of_trapped (htrap.trans ?_) hm hel⟩
    · rcases h with h | ⟨(htase : s.hcptrTASE = false), (htcp10 : s.hcptrTCP10 = false)⟩
      · rw [h, Bool.false_and]
      · rw [htase, htcp10, Bool.or_false, Bool.and_false]
    · rw [hel2, Bool.true_and, Bool.or_eq_true]
      exact h
  case hyp =>
    rw [enableVerdict_of_hyp hm, trapVerdict_of_hyp hm]
    exact if_congr (hypTrapped_iff s) rfl rfl

/-- Settles O55: the verdict is the sketch's, and `ASEDIS` makes that `Undefined`. -/
theorem asedisDisablesStores : Obligations.AsedisDisablesStores := by
  intro i c s hi hn hd hc hsettings hm hasedis
  rw [exec_eq_checkedStore hi hn hd hc]
  exact checkedStore_of_undefined (hsettings.1.trans (enableVerdict_of_cpacr hm (.inl hasedis)))

end Sys2Proof.Machine
end
